-- ==== Sys2Proof/Word.lean ====
section
/-! DEFINITION. The word type of the block: one byte, and the 24-bit NVM offset that some payloads name. -/

namespace Sys2Proof

/-- A byte: an unsigned integer in 0..255 (R8). Every header field of a frame is one byte (R58). -/
abbrev Byte := BitVec 8

/-- NVMAddress: "a 24-bit unsigned offset into NVM address space" (R14, R62). It belongs to the peer. -/
abbrev Addr24 := BitVec 24

end Sys2Proof
end

