-- ==== Sys2Proof/Config.lean ====
section
/-! DEFINITION. The constants of R6, the parameters of R7, and the free values: what the spec leaves open and no proof can see. -/

namespace Sys2Proof

/-- The domain {1, 2} of the parameter `LEN_BIAS` (R7, D1). -/
inductive LenBias where
  | one
  | two
  deriving DecidableEq, Repr

/-- The number a `LEN_BIAS` stands for. -/
def LenBias.toNat : LenBias → Nat
  | .one => 1
  | .two => 2

/-- The parameters of R7, fixed when the model is instantiated: no step of any agent changes them (R29, R34).
They stand in the state so that every statement about every state holds for every value of every parameter. -/
structure Params where
  /-- `LEN_BIAS` (R82, D1). -/
  lenBias : LenBias
  /-- `BODY_BYTE_TIMEOUT_MS`, `none` for the reference behaviour without a deadline (R132, D9). -/
  bodyByteTimeout : Option Nat
  /-- `RX_CAPACITY`, `none` for unbounded (R52, D16). -/
  rxCapacity : Option Nat
  /-- `REPLY_TIMEOUT_DEFAULT_MS`, host layer only (R181, D21). -/
  replyTimeout : Nat
  /-- `MEMBERSHIP_TIMEOUT_MS`, host layer only (R7, D21). -/
  membershipTimeout : Nat
  /-- `CHUNK_MAX`, host layer only (R194). -/
  chunkMax : Nat
  deriving DecidableEq, Repr

/-- `FOLLOW(L) = L + 2 - LEN_BIAS`: how many bytes a receiver reads after a LEN byte of value `L` (R83). -/
def follow (b : LenBias) (l : Byte) : Nat := l.toNat + 2 - b.toNat

/-- `MAX_PAYLOAD = 255 - LEN_BIAS` (R7, D3). -/
def maxPayload (b : LenBias) : Nat := 255 - b.toNat

namespace Config

/-! ### The fixed constants of R6. None is writable at run time. -/

/-- Start of frame. -/
def sof : Byte := 0x01#8
/-- Acknowledge. -/
def ack : Byte := 0x06#8
/-- Negative acknowledge. -/
def nak : Byte := 0x15#8
/-- Cancel. -/
def can : Byte := 0x18#8
/-- Frame type of a host to peer command. -/
def typeRequest : Byte := 0x00#8
/-- Frame type of a peer to host reply or callback. -/
def typeResponse : Byte := 0x01#8
/-- Initial value of the checksum accumulator. -/
def chkSeed : Byte := 0xFF#8
/-- Wait for the handshake byte after the first send. -/
def tAckFirst : Nat := 500
/-- Wait after the resend on the timeout path. -/
def tAckRetryTimeout : Nat := 1500
/-- Wait after the resend on the non-ACK path. -/
def tAckRetryNonAck : Nat := 500
/-- Sleep before the resend on the non-ACK path. -/
def tBackoff : Nat := 1000
/-- Total transmissions of one frame per `sendFrame`. -/
def maxSends : Nat := 2

/-! ### Values of an instantiation that the spec leaves OPEN. -/

/-- `BODY_BYTE_TIMEOUT_MS` is OPEN (D9); notes/assumptions/8. -/
opaque bodyByteTimeout : Option Nat
/-- `MEMBERSHIP_TIMEOUT_MS` is OPEN (D21); notes/assumptions/10. -/
opaque membershipTimeout : Nat
/-- The receive queue at reset is "any byte sequence" (R36, U15); notes/assumptions/3. -/
opaque resetRxq : List Byte
/-- The time at reset is "any time" (R36, U17); notes/assumptions/4. -/
opaque resetNow : Nat

/-- The parameters of the machine that `State.reset` makes: the decided values where the spec decides
(`LEN_BIAS` 2, `RX_CAPACITY` unbounded, 5000 ms, 16 bytes), the open ones where it does not. -/
def params : Params where
  lenBias := .two
  bodyByteTimeout := bodyByteTimeout
  rxCapacity := none
  replyTimeout := 5000
  membershipTimeout := membershipTimeout
  chunkMax := 16

/-! ### Free values. Nothing constrains them; a statement holds whatever they are. -/

/-- The `deadline = unspecified` of a new PendingExchange (R150), fresh at every use; notes/assumptions/6. -/
opaque freeTime : Nat → Nat
/-- How far the Time agent lets time advance when the schedule is empty (R32); notes/assumptions/2. -/
opaque freeAdvance : Nat → Nat
/-- Whether a reply is expected to a command whose row gives no response, by its opcode
(R203, R213, R215); notes/assumptions/18. -/
opaque replyUnstated : Byte → Bool
/-- The mode byte of the start command, by opcode 0x4A or 0x4B (R197, R211, R212, N13); notes/assumptions/22. -/
opaque modeStart : Byte → Byte
/-- The mode byte of the stop command, by opcode (R197, R211, R212, N13); notes/assumptions/22. -/
opaque modeStop : Byte → Byte
/-- The transmit-options byte the membership protocols use, by opcode and mode (R211, R212, N13); notes/assumptions/22. -/
opaque txOptions : Byte → Byte → Byte
/-- The two offset and length bytes of opcode 0x2A for an address and a count (R207, N12); notes/assumptions/21. -/
opaque nvmReadFields : Nat → Nat → Byte × Byte
/-- The data bytes a response to opcode 0x2A carries (R207, N12); notes/assumptions/21. -/
opaque nvmReadData : List Byte → List Byte
/-- Whether a response's echoed address and length match the request; constantly true is the reference, which
makes no check (R192, U3); notes/assumptions/21. -/
opaque nvmEchoOk : List Byte → List Byte → Bool
/-- The status byte of a write response that is not an echoed opcode and one byte (R208, R209); notes/assumptions/21. -/
opaque nvmStatus : List Byte → Byte
/-- An NVM offset past the top of the 24-bit space; notes/assumptions/21. -/
opaque nvmAddrPastTop : Nat → Addr24
/-- How many bytes the last, partial chunk of a `fill` would cover, before the bound of `CHUNK_MAX` (R195, U25);
notes/assumptions/38. -/
opaque fillTail : Nat → Nat
/-- The manufacturer code in a response to opcode 0x29 (R191, R206); notes/assumptions/21. -/
opaque manufacturerCode : List Byte → List Byte
/-- The device info in a response to opcode 0x29 (R191, R206); notes/assumptions/21. -/
opaque deviceInfo : List Byte → List Byte
/-- The member identifier in a membership frame's payload, by opcode (R197, N13); notes/assumptions/22. -/
opaque memberId : Byte → List Byte → Byte

end Config

/-- The statuses a membership frame can report (R197). `unknown` stands for a frame that carries none of them. -/
inductive MemberStatus where
  | learnReady
  | nodeFound
  | member
  | protocolDone
  | failed
  | unknown
  deriving DecidableEq, Repr, Inhabited

/-- The status in the payload of a membership frame, by the opcode of its protocol: the values and their place are not in the
source (R197, N13); notes/assumptions/22. -/
opaque Config.memberStatus : Byte → List Byte → MemberStatus

/-- The forms of an NVMLength, "an 8- or 16-bit count of bytes" (R14); the byte order of the 16-bit form is not stated (R62). -/
inductive LengthForm where
  | oneByte
  | twoBytesHighFirst
  | twoBytesLowFirst
  deriving DecidableEq, Repr, Inhabited

/-- The form of the length field of opcode 0x2B, whose width is not stated (R194, R208, N12); notes/assumptions/21. -/
opaque Config.nvmLengthForm : LengthForm

end Sys2Proof
end

