-- ==== Sys2Proof/Syntax.lean ====
section
/-! DEFINITION. The instructions: one constructor per row of spec/opcode_table.json, and the images they are presented in. -/

namespace Sys2Proof

/-- The 27 rows of the opcode table (R97). What the spec's checklist calls an instruction is, here, a unit on the link
(a sentinel byte or a frame), an operation of the block, or a command that the host layer sends (R15). -/
inductive Instr where
  /- Format SENTINEL: one byte on the link (R84). -/
  | sof
  | ack
  | nak
  | can
  /- Format FRAME: SOF, LEN, TYPE, payload, CHECKSUM on the link (R81, R85). LEN and CHECKSUM are operands, because a
  receiver accepts every value of both (R90, R91). -/
  | request (len : Byte) (payload : List Byte) (chk : Byte)
  | response (len : Byte) (payload : List Byte) (chk : Byte)
  /- Format OP: the operations of the block, constructors with their arguments (R95). -/
  | checksum (xs : List Byte)
  | encode (frameType : Byte) (payload : List Byte)
  | decode (rawFrame : List Byte)
  | syncToFrameStart (timeoutMs : Nat)
  | receiveFrame (timeoutMs : Nat)
  | drain
  | sendFrame (frameBytes : List Byte)
  /- Format PAYLOAD: the command opcodes, payload byte 0, with the arguments of R200 to R213. Where a rule does not lay
  its arguments out they are a byte list. -/
  | getInitData
  | getCapabilities
  | softReset
  | getProtocolVersion (args : List Byte)
  | getLibraryVersion
  | getHomeNodeId
  | nvmGetManufacturerId
  | nvmExtRead (addr : Addr24) (field0 field1 : Byte)
  | nvmExtWriteRange (addr : Addr24) (lengthAndData : List Byte)
  | nvmExtWriteByte (addr : Addr24) (value : Byte)
  | factoryReset
  | addNode (mode txOptions : Byte)
  | removeNode (mode txOptions : Byte)
  | fwUpdateNvm (subCommand : Byte) (args : List Byte)
  deriving DecidableEq, Repr

/-- How an instruction is presented to the machine. Units are bytes on the link (R80). A command is its payload bytes,
opcode first (R94). An operation has no code: it is its constructor (R95). -/
inductive Image where
  | link (bytes : List Byte)
  | command (payload : List Byte)
  | operation (i : Instr)
  deriving DecidableEq, Repr

end Sys2Proof
end

