-- ==== Sys2Proof/Machine/State.lean ====
section
/-! DEFINITION. The state: the record `s` of R23, the host layers over it, the agents' schedule, and the state after reset. -/

namespace Sys2Proof.Machine

/-! ### The block -/

/-- Transport's control state, the counterpart of a program counter: the eleven values of R27. -/
inductive Phase where
  | idle
  | sendStart
  | sendWait1
  | sendWait2T
  | sendBackoff
  | sendWait2N
  | syncOnly
  | recvSync
  | recvLen
  | recvBody
  | recvAck
  deriving DecidableEq, Repr

/-- PendingExchange, the send in progress (R25). -/
structure Pending where
  /-- The bytes being sent, unchanged for the life of the exchange. -/
  frame : List Byte
  /-- How many times `frame` has been written so far, in 0..`MAX_SENDS`. -/
  attempts : Nat
  /-- When the current handshake wait, or the current back-off sleep, ends. -/
  deadline : Nat
  deriving DecidableEq, Repr

/-- The link events of R69. -/
inductive LinkEvent where
  /-- A completed `RxGet` that returned `Some(b)`. -/
  | read (b : Byte)
  /-- An `RxDrain`, with the discarded bytes. -/
  | drain (bytes : List Byte)
  /-- A `TxPut(bs)`. -/
  | write (bytes : List Byte)
  /-- A `None` from `RxGet`. -/
  | timeout
  deriving DecidableEq, Repr

/-! ### Outcomes -/

/-- The error kinds of R231. They have names and no codes (D20). -/
inductive ErrKind where
  | frameSyncTimeout
  | frameBodyTimeout
  | checksumMismatch
  | truncated
  | tooShort
  | noAcknowledgment
  | linkOpenFailure
  | refused
  | writeFailed
  | transferError
  deriving DecidableEq, Repr

/-- Which handshake wait saw the `ACK` (R160). -/
inductive SendPath where
  | first
  | afterTimeout
  | afterNonAck
  deriving DecidableEq, Repr

/-- How a membership protocol ended, or where it stands (R197). -/
inductive Membership where
  | idle
  | learnReady
  | nodeFound
  | addingMember
  | protocolDone
  | done
  | failed
  deriving DecidableEq, Repr

/-- What an `Ok` carries (R230, R96). -/
inductive OkValue where
  /-- The empty value `()`. -/
  | unit
  /-- `checksum`. -/
  | byte (b : Byte)
  /-- `encode`. -/
  | bytes (bs : List Byte)
  /-- `decode`. -/
  | frame (frameType : Byte) (payload : List Byte) (consumed : Nat)
  /-- `receiveFrame`. -/
  | received (bytes : List Byte) (checksumOk : Bool)
  /-- `sendFrame`: AckOutcome (R160). -/
  | acknowledged (attempts : Nat) (path : SendPath)
  /-- `call` (R181). -/
  | reply (payload : Option (List Byte))
  /-- `identify` (R191). -/
  | identity (manufacturerCode deviceInfo : List Byte)
  /-- `readRange` (R192). -/
  | data (bs : List Byte)
  /-- A membership protocol that ran to its end without an error (R197). -/
  | membership (final : Membership) (node : Option Byte)
  deriving DecidableEq, Repr

/-- The outcome of an operation: exactly one of two ways (R230). -/
inductive OpResult where
  | ok (v : OkValue)
  /-- `body` is what `decode`'s errors carry (R115); the other kinds carry nothing (R231). -/
  | err (kind : ErrKind) (body : List Byte)
  /-- A `fill` that ended early, and how many bytes it had written (R195). -/
  | stopped (kind : ErrKind) (written : Nat)
  /-- A membership protocol that met an error, which it passes up (R197, R244), with where it ended and the member it had
  seen. -/
  | membershipErr (kind : ErrKind) (final : Membership) (node : Option Byte)
  deriving DecidableEq, Repr

/-! ### The host layers -/

/-- What the CommandChannel waits for (R181, R183). -/
inductive Wait where
  /-- The handshake of the request; then a reply, when one is expected, within `replyTimeout`. -/
  | handshake (expectReply : Bool) (replyTimeout : Nat)
  /-- The reply frame. -/
  | reply
  /-- A callback frame. -/
  | callback
  deriving DecidableEq, Repr

/-- The CommandChannel's exchange in progress, its only state (R180), with the block's outcome once it has come. -/
structure Exchange where
  wait : Wait
  got : Option OpResult
  deriving DecidableEq, Repr

/-- The operations of the layers over the block, with the signatures of R96: an address is an NVMAddress of 24 bits, the length
of `readRange` a `u16`, the size of `fill` a `usize`, unbounded. -/
inductive HostOp where
  /-- `call(payload, expectReply)` with the caller's timeout, or the default one (R181). -/
  | call (payload : List Byte) (expectReply : Bool) (timeoutMs : Option Nat)
  | awaitCallback (timeoutMs : Nat)
  | identify
  | readRange (addr : Addr24) (length : BitVec 16)
  | writeByte (addr : Addr24) (value : Byte)
  | writeRange (addr : Addr24) (bytes : List Byte)
  | fill (value : Byte) (totalSize : Nat)
  /-- Soft reset and the callback that follows it (R202). -/
  | softReset (timeoutMs : Nat)
  /-- Factory reset and the soft-reset sequence that follows it (R210). -/
  | factoryReset (timeoutMs : Nat)
  | addNode
  | removeNode
  deriving DecidableEq, Repr

/-- A host operation in progress: what its next step needs to know. -/
inductive Job where
  | identify
  /-- `request` is the payload in flight, `chunk` its count, `left` what remains after it, `acc` what has been read. -/
  | read (addr chunk left : Nat) (request acc : List Byte)
  | writeByte
  /-- `chunk` bytes are in flight to `addr`, `rest` follow them. -/
  | write (addr chunk : Nat) (rest : List Byte)
  /-- `chunk` bytes of `value` are in flight, `written` of `total` have been acknowledged. -/
  | fill (value : Byte) (total chunk written : Nat)
  /-- The factory reset command is in flight; soft reset follows. -/
  | factoryReset (timeoutMs : Nat)
  /-- The soft reset command is in flight; its callback follows. -/
  | softReset (timeoutMs : Nat)
  /-- The callback of a soft reset is awaited. -/
  | resetCallback
  /-- A membership protocol (R197), before its loop ends. -/
  | member (adding : Bool) (state : Membership) (node : Option Byte)
  /-- Its explicit stop, which `ProtocolDone` requires. -/
  | memberStop (adding : Bool) (node : Option Byte)
  /-- Its cleanup stop, "always sent on exit"; `error` is the first error the protocol met. -/
  | memberCleanup (final : Membership) (node : Option Byte) (error : Option ErrKind)
  deriving DecidableEq, Repr

/-! ### The agents' schedule -/

/-- One move of one of the four agents of R20. -/
inductive Move where
  /-- Transport takes its next step, if one is enabled. -/
  | transport
  /-- Time advances by `ms`, as far as R53 lets it. -/
  | time (ms : Nat)
  /-- The peer appends bytes (R51). -/
  | peer (bytes : List Byte)
  /-- The host layer takes the outcome it waits for and goes on (R181). -/
  | host
  /-- The host begins an operation of its layers. -/
  | start (h : HostOp)
  /-- An instruction in its image: a unit arrives on the link, or the host issues an operation or a command. -/
  | fetch (im : Image)
  deriving DecidableEq, Repr

/-- The state. The first eleven fields are the record `s` of R23; the rest is the host's side of the CMD interface, the
histories of R50 and R69, the parameters, and what lets one deterministic step stand for four agents. -/
structure State where
  /-- `s.phase` (R27). -/
  phase : Phase
  /-- `s.pend` (R25, R26). -/
  pend : Option Pending
  /-- `s.syncDeadline`: deadline of the current SOF hunt. -/
  syncDeadline : Nat
  /-- `s.byteDeadline`: deadline of the current LEN-byte or body-byte read; `none` is no deadline (R132). -/
  byteDeadline : Option Nat
  /-- `s.rxLen`: LEN byte of the frame being received. -/
  rxLen : Byte
  /-- `s.rxBuf`: body bytes received so far. -/
  rxBuf : List Byte
  /-- `s.chkOk`: result of the checksum test of the last received frame (R28). -/
  chkOk : Bool
  /-- `s.hadStale`: whether the last pre-send drain found bytes (R28). -/
  hadStale : Bool
  /-- `s.rxq`: bytes received and not yet read, oldest first (R51). -/
  rxq : List Byte
  /-- `s.txlog` (history): every byte Transport has written, oldest first (R55). -/
  txlog : List Byte
  /-- `s.now`: current time in milliseconds (R32). -/
  now : Nat
  /-- History: the link events of R69, oldest first. -/
  events : List LinkEvent
  /-- History: the outcomes handed to the host over CMD (R50, R230), oldest first. -/
  outlog : List OpResult
  /-- The CommandChannel's exchange in progress (R180, R185). -/
  exch : Option Exchange
  /-- The host operation in progress (R190, R197). -/
  job : Option Job
  /-- The moves to come (R20 to R22); the model's own. -/
  sched : List Move
  /-- How many free values have been used; the model's own. -/
  fresh : Nat
  /-- The parameters of R7; no step changes them. -/
  par : Params
  deriving DecidableEq, Repr

/-! ### Why a step can stop -/

/-- The faults. -/
inductive Fault where
  /-- Raised by a peer step that would put more bytes into the receive queue than a finite `RX_CAPACITY` allows, which
  R52 puts "outside this spec". Safe: nothing is claimed of what follows. It cannot arise with the default, unbounded. -/
  | rxOverflow
  deriving DecidableEq, Repr

/-- The refusals. -/
inductive Refusal where
  /-- Raised by an arm of `exec` whose instruction has no meaning yet. Safe. No arm raises it now. -/
  | notModelled (mnemonic : String)
  deriving DecidableEq, Repr

/-! ### Reset -/

/-- A Transport just created over an opened link (R36, R260, R261), whatever the queue holds, whatever the time and the
parameters. Where R36 says "unspecified" the value is the model's (notes/assumptions/5). -/
def State.created (rxq : List Byte) (now : Nat) (par : Params) : State where
  phase := .idle
  pend := none
  syncDeadline := 0
  byteDeadline := none
  rxLen := 0x00#8
  rxBuf := []
  chkOk := false
  hadStale := false
  rxq := rxq
  txlog := []
  now := now
  events := []
  outlog := []
  exch := none
  job := none
  sched := []
  fresh := 0
  par := par

/-- The machine right after reset: nothing is assumed of the queue or of the time (R36). -/
def State.reset : State := State.created Config.resetRxq Config.resetNow Config.params

end Sys2Proof.Machine
end

