-- ==== Sys2Proof/Machine/Flags.lean ====
section
/-! DEFINITION. The checksum fold and the two one-bit flags of R28. -/

namespace Sys2Proof.Machine

/-- `fold_xor(seed, xs)` (R9). -/
def foldXor (seed : Byte) : List Byte → Byte
  | [] => seed
  | x :: xs => foldXor (seed ^^^ x) xs

/-- `checksum(xs) = fold_xor(0xFF, xs)` (R110, R86). -/
def checksumOf (xs : List Byte) : Byte := foldXor Config.chkSeed xs

/-- The value of `s.chkOk` for a received frame: the seeded fold over LEN and the body is zero (R28, R87). -/
def chkFlag (len : Byte) (body : List Byte) : Bool := checksumOf (len :: body) == 0x00#8

/-- The value of `s.hadStale`: the pre-send drain removed at least one byte (R28). -/
def staleFlag (count : Nat) : Bool := decide (0 < count)

end Sys2Proof.Machine
end

