-- ==== Sys2Proof/WellFormed.lean ====
section
/-! DEFINITION. Which instructions have an image: the length a frame's LEN announces and the longest payload. -/

namespace Sys2Proof

/-- A frame holds the payload its LEN byte announces: `FOLLOW(LEN)` bytes less TYPE and CHECKSUM (R81, R83). -/
def frameFits (b : LenBias) (len : Byte) (payload : List Byte) : Bool :=
  payload.length == follow b len - 2

/-- A payload of `n` bytes fits one frame (R81, R111). -/
def payloadFits (b : LenBias) (n : Nat) : Bool := n ≤ maxPayload b

/-- The well-formed instructions. A received LEN or CHECKSUM of any value is well-formed (R91), and so is every argument
of `decode` and `sendFrame` (R113, R150). -/
def wellFormed (b : LenBias) : Instr → Bool
  | .sof => true
  | .ack => true
  | .nak => true
  | .can => true
  | .request len payload _ => frameFits b len payload
  | .response len payload _ => frameFits b len payload
  | .checksum _ => true
  | .encode _ payload => payloadFits b payload.length
  | .decode _ => true
  | .syncToFrameStart _ => true
  | .receiveFrame _ => true
  | .drain => true
  | .sendFrame _ => true
  | .getInitData => true
  | .getCapabilities => true
  | .softReset => true
  | .getProtocolVersion args => payloadFits b (1 + args.length)
  | .getLibraryVersion => true
  | .getHomeNodeId => true
  | .nvmGetManufacturerId => true
  | .nvmExtRead _ _ _ => true
  | .nvmExtWriteRange _ rest => payloadFits b (4 + rest.length)
  | .nvmExtWriteByte _ _ => true
  | .factoryReset => true
  | .addNode _ _ => true
  | .removeNode _ _ => true
  | .fwUpdateNvm _ args => payloadFits b (2 + args.length)

end Sys2Proof
end

