-- ==== Sys2Proof/Decode.lean ====
section
/-! DEFINITION. Decoding: from link bytes or payload bytes to an instruction or a refusal by name; then the encoder. -/

namespace Sys2Proof

/-- Why bytes are no instruction of the table. The machine does not stop on such bytes: the link carries any byte
(R92, R93) and a payload any command (R215). -/
inductive DecodeError where
  /-- No byte at all. -/
  | empty
  /-- A byte that is none of the four sentinels where a unit begins (R92). -/
  | noUnit (b : Byte)
  /-- `SOF` and then fewer bytes than LEN announces (R88). -/
  | truncatedFrame
  /-- A TYPE other than REQUEST and RESPONSE (R90). -/
  | reservedType (t : Byte)
  /-- Bytes after the unit. -/
  | trailingBytes
  /-- Payload byte 0 is none of the fourteen opcodes (R94, R215). -/
  | unknownCommand (op : Byte)
  /-- A listed opcode with other argument bytes than its rule gives it: no row, by the model's choice (notes/assumptions/33). -/
  | commandShape (op : Byte)
  deriving DecidableEq, Repr

/-! ### Units on the link -/

/-- The bytes after a `SOF`, by the FRAME rows of R97: LEN is free and TYPE chooses the row. A `SOF` with nothing after
it is the sentinel byte itself. -/
def decodeFrame (b : LenBias) : List Byte → Except DecodeError (Instr × List Byte)
  | [] => .ok (.sof, [])
  | [_] => .error .truncatedFrame
  | len :: ty :: more =>
    if ty = Config.typeRequest ∨ ty = Config.typeResponse then
      match more.drop (follow b len - 2) with
      | [] => .error .truncatedFrame
      | chk :: left =>
        if ty = Config.typeRequest then .ok (.request len (more.take (follow b len - 2)) chk, left)
        else .ok (.response len (more.take (follow b len - 2)) chk, left)
    else .error (.reservedType ty)

/-- The unit at the front of a run of link bytes, and the bytes after it (R80, R88). -/
def decodeUnit (b : LenBias) : List Byte → Except DecodeError (Instr × List Byte)
  | [] => .error .empty
  | x :: rest =>
    if x = Config.sof then decodeFrame b rest
    else if x = Config.ack then .ok (.ack, rest)
    else if x = Config.nak then .ok (.nak, rest)
    else if x = Config.can then .ok (.can, rest)
    else .error (.noUnit x)

/-- A run of link bytes that is exactly one unit. -/
def decodeLink (b : LenBias) (bytes : List Byte) : Except DecodeError Instr :=
  match decodeUnit b bytes with
  | .ok (i, []) => .ok i
  | .ok (_, _ :: _) => .error .trailingBytes
  | .error e => .error e

/-! ### Commands, by payload byte 0 -/

/-- Three big-endian bytes as an NVM offset (R62). -/
def joinAddr (hi mid lo : Byte) : Addr24 :=
  BitVec.ofNat 24 (65536 * hi.toNat + 256 * mid.toNat + lo.toNat)

/-- A command without argument bytes. -/
def commandNone (op : Byte) (i : Instr) : List Byte → Except DecodeError Instr
  | [] => .ok i
  | _ :: _ => .error (.commandShape op)

/-- A command with two argument bytes. -/
def commandTwo (op : Byte) (f : Byte → Byte → Instr) : List Byte → Except DecodeError Instr
  | [x, y] => .ok (f x y)
  | _ => .error (.commandShape op)

/-- The arguments of opcode 0x2A: three address bytes and two more (R207). -/
def commandRead (op : Byte) : List Byte → Except DecodeError Instr
  | [h, m, l, x, y] => .ok (.nvmExtRead (joinAddr h m l) x y)
  | _ => .error (.commandShape op)

/-- The arguments of opcode 0x2B: three address bytes, a length field of unstated width and data (R208). -/
def commandWriteRange (op : Byte) : List Byte → Except DecodeError Instr
  | h :: m :: l :: rest => .ok (.nvmExtWriteRange (joinAddr h m l) rest)
  | _ => .error (.commandShape op)

/-- The arguments of opcode 0x2D: three address bytes and one data byte (R209). -/
def commandWriteByte (op : Byte) : List Byte → Except DecodeError Instr
  | [h, m, l, v] => .ok (.nvmExtWriteByte (joinAddr h m l) v)
  | _ => .error (.commandShape op)

/-- The arguments of opcode 0x78: a sub-command byte and whatever follows it (R213). -/
def commandFirmware (op : Byte) : List Byte → Except DecodeError Instr
  | sub :: args => .ok (.fwUpdateNvm sub args)
  | [] => .error (.commandShape op)

/-- The PAYLOAD rows, matched on payload byte 0 (R97, R200 to R213). That argument bytes of another shape than the rule's make
no instruction of the row is the model's choice (notes/assumptions/33). -/
def decodeOpcode (op : Byte) (args : List Byte) : Except DecodeError Instr :=
  if op = 0x02#8 then commandNone op .getInitData args
  else if op = 0x07#8 then commandNone op .getCapabilities args
  else if op = 0x08#8 then commandNone op .softReset args
  else if op = 0x09#8 then .ok (.getProtocolVersion args)
  else if op = 0x15#8 then commandNone op .getLibraryVersion args
  else if op = 0x20#8 then commandNone op .getHomeNodeId args
  else if op = 0x29#8 then commandNone op .nvmGetManufacturerId args
  else if op = 0x2A#8 then commandRead op args
  else if op = 0x2B#8 then commandWriteRange op args
  else if op = 0x2D#8 then commandWriteByte op args
  else if op = 0x42#8 then commandNone op .factoryReset args
  else if op = 0x4A#8 then commandTwo op .addNode args
  else if op = 0x4B#8 then commandTwo op .removeNode args
  else if op = 0x78#8 then commandFirmware op args
  else .error (.unknownCommand op)

/-- A command from its payload bytes. -/
def decodeCommand : List Byte → Except DecodeError Instr
  | [] => .error .empty
  | op :: args => decodeOpcode op args

/-- The decoder: an image to an instruction, or a refusal by name. -/
def decodeImage (b : LenBias) : Image → Except DecodeError Instr
  | .link bytes => decodeLink b bytes
  | .command payload => decodeCommand payload
  | .operation i => .ok i

/-! ### The encoder -/

/-- An NVM offset as "3 big-endian bytes", most significant first (R62). -/
def addrBytes (a : Addr24) : List Byte :=
  [BitVec.ofNat 8 (a.toNat / 65536), BitVec.ofNat 8 (a.toNat / 256), BitVec.ofNat 8 a.toNat]

/-- The bytes of a frame on the link, in the order of R58 and R81. -/
def frameBytes (len ty : Byte) (payload : List Byte) (chk : Byte) : List Byte :=
  Config.sof :: len :: ty :: (payload ++ [chk])

/-- The words of an instruction, from the encoding tables of R81, R84, R85 and R200 to R213. -/
def imageOf (i : Instr) : Image :=
  match i with
  | .sof => .link [Config.sof]
  | .ack => .link [Config.ack]
  | .nak => .link [Config.nak]
  | .can => .link [Config.can]
  | .request len payload chk => .link (frameBytes len Config.typeRequest payload chk)
  | .response len payload chk => .link (frameBytes len Config.typeResponse payload chk)
  | .checksum xs => .operation (.checksum xs)
  | .encode t payload => .operation (.encode t payload)
  | .decode raw => .operation (.decode raw)
  | .syncToFrameStart t => .operation (.syncToFrameStart t)
  | .receiveFrame t => .operation (.receiveFrame t)
  | .drain => .operation .drain
  | .sendFrame bs => .operation (.sendFrame bs)
  | .getInitData => .command [0x02#8]
  | .getCapabilities => .command [0x07#8]
  | .softReset => .command [0x08#8]
  | .getProtocolVersion args => .command (0x09#8 :: args)
  | .getLibraryVersion => .command [0x15#8]
  | .getHomeNodeId => .command [0x20#8]
  | .nvmGetManufacturerId => .command [0x29#8]
  | .nvmExtRead a x y => .command (0x2A#8 :: (addrBytes a ++ [x, y]))
  | .nvmExtWriteRange a rest => .command (0x2B#8 :: (addrBytes a ++ rest))
  | .nvmExtWriteByte a v => .command (0x2D#8 :: (addrBytes a ++ [v]))
  | .factoryReset => .command [0x42#8]
  | .addNode mode opts => .command [0x4A#8, mode, opts]
  | .removeNode mode opts => .command [0x4B#8, mode, opts]
  | .fwUpdateNvm sub args => .command (0x78#8 :: sub :: args)

/-- The bytes of an image, `[]` for an operation, which has no code (R95). -/
def imageBytes : Image → List Byte
  | .link bytes => bytes
  | .command payload => payload
  | .operation _ => []

/-- The bytes an instruction has on the link or in a payload. -/
def instrBytes (i : Instr) : List Byte := imageBytes (imageOf i)

/-! ### The opcode table's words -/

/-- How many fixed argument bytes follow an opcode of the table (R200 to R213). -/
def argumentBytes (op : Byte) : Nat :=
  if op = 0x2A#8 then 5
  else if op = 0x2B#8 then 3
  else if op = 0x2D#8 then 4
  else if op = 0x4A#8 ∨ op = 0x4B#8 then 2
  else if op = 0x78#8 then 1
  else 0

/-- The bytes of a word of `n` bytes, the FIRST byte the most significant, as the table's FRAME rows are numbered
(R97: "a 24-bit value, first byte most significant"). -/
def bytesOfWord : Nat → Nat → List Byte
  | 0, _ => []
  | n + 1, w => BitVec.ofNat 8 (w >>> (8 * n)) :: bytesOfWord n w

/-- The image of a one-byte word: a sentinel where the value is one of the four, else a command with zero argument
bytes. The value 0x15 stands in two rows of the table, NAK and GET_LIBRARY_VERSION; on the link it is NAK. -/
def imageOfByte (x : Byte) : Image :=
  if x = Config.sof ∨ x = Config.ack ∨ x = Config.nak ∨ x = Config.can then .link [x]
  else .command (x :: List.replicate (argumentBytes x) 0x00#8)

/-- The image of a word that begins a frame: its bytes, then zero bytes up to the end LEN announces. -/
def imageOfBytes (b : LenBias) : List Byte → Image
  | x :: len :: ty :: more =>
    .link (x :: len :: ty :: (more ++ List.replicate (follow b len - 2 + 1 - more.length) 0x00#8))
  | bytes => .link bytes

/-- The image of the table's word `w` of `nbits` bits, every bit above them zero. -/
def imageOfTableWord (b : LenBias) (nbits w : Nat) : Image :=
  if nbits ≤ 8 then imageOfByte (BitVec.ofNat 8 w)
  else imageOfBytes b (bytesOfWord (nbits / 8) w)

/-- What the decoder reads from the table's word, under the `LEN_BIAS` this spec decides. -/
def decodeTableWord (nbits w : Nat) : Option Instr :=
  match decodeImage Config.params.lenBias (imageOfTableWord Config.params.lenBias nbits w) with
  | .ok i => some i
  | .error _ => none

end Sys2Proof
end

