-- ==== Sys2Proof/Machine/Operands.lean ====
section
/-! DEFINITION. The operand forms: a frame's body and payload, and the payload bytes of the host's commands. -/

namespace Sys2Proof.Machine

/-- The payload of a body: its first and last byte removed (R116). -/
def payloadOfBody (body : List Byte) : List Byte := (body.drop 1).dropLast

/-- The frame type of a body that is not empty: its first byte (R116). -/
def typeOfBody (body : List Byte) : Byte := body.headD 0x00#8

/-- Payload bytes 1 to 4 most significant first, and payload byte 5: HomeID and NodeID (R62, R205, R214). -/
def homeNodeOf : List Byte → Option (BitVec 32 × Byte)
  | _ :: a :: b :: c :: d :: n :: _ => some (a ++ b ++ c ++ d, n)
  | _ => none

/-- An NVM offset as the payload carries it; past the top of the 24-bit space it is a free value. -/
def nvmAddr (a : Nat) : Addr24 :=
  if a < 2 ^ 24 then BitVec.ofNat 24 a else Config.nvmAddrPastTop a

/-- The request payload of one `readRange` chunk (R192, R207). -/
def readPayload (addr count : Nat) : List Byte :=
  instrBytes (.nvmExtRead (nvmAddr addr) (Config.nvmReadFields addr count).1 (Config.nvmReadFields addr count).2)

/-- An NVMLength: the count `n` in 8 or 16 bits (R14). -/
def lengthField : LengthForm → Nat → List Byte
  | .oneByte, n => [BitVec.ofNat 8 n]
  | .twoBytesHighFirst, n => [BitVec.ofNat 8 (n / 256), BitVec.ofNat 8 n]
  | .twoBytesLowFirst, n => [BitVec.ofNat 8 n, BitVec.ofNat 8 (n / 256)]

/-- The request payload of one `writeRange` chunk (R194, R208). -/
def writePayload (addr : Nat) (bytes : List Byte) : List Byte :=
  instrBytes (.nvmExtWriteRange (nvmAddr addr) (lengthField Config.nvmLengthForm bytes.length ++ bytes))

/-- The status byte of a write response: the byte after the echoed opcode (R193, R208, R209, R214); in a response of
another shape its place is not in the source and its value is free. The echoed opcode itself is not checked
(notes/assumptions/37). -/
def statusOf : List Byte → Byte
  | [_, st] => st
  | p => Config.nvmStatus p

end Sys2Proof.Machine
end

