-- ==== Sys2Proof/Machine/Ops.lean ====
section
/-! DEFINITION. The link's access primitives (R51 to R56), the end of an operation (R230, R242), and refusal (R243). -/

namespace Sys2Proof.Machine

/-- Runs the rest of a step on the next state, if there is one. -/
def andThen (r : Host.Outcome State Fault Refusal) (f : State → Host.Outcome State Fault Refusal) :
    Host.Outcome State Fault Refusal :=
  match r with
  | .next s => f s
  | .fault e => .fault e
  | .refused e => .refused e

/-! ### The transmit stream -/

/-- `TxPut(bs)`: one indivisible, infallible append (R55, R61). -/
def txPut (bs : List Byte) (s : State) : State :=
  { s with txlog := s.txlog ++ bs, events := s.events ++ [.write bs] }

/-- Writing one `ACK` byte. -/
def txAck (s : State) : State := txPut [Config.ack] s

/-! ### The receive queue -/

/-- A step of the peer's that appends `n` bytes stays within `RX_CAPACITY` (R52). -/
def roomFor (n : Nat) (s : State) : Bool :=
  match s.par.rxCapacity with
  | none => true
  | some c => s.rxq.length + n ≤ c

/-- A peer step: `s.rxq <- s.rxq ++ bs` (R51). -/
def deliver (bs : List Byte) (s : State) : Host.Outcome State Fault Refusal :=
  if roomFor bs.length s then .next { s with rxq := s.rxq ++ bs } else .fault .rxOverflow

/-- `RxGet` completing with `Some(b)`, where `rest` is what stays queued (R53). -/
def rxTake (b : Byte) (rest : List Byte) (s : State) : State :=
  { s with rxq := rest, events := s.events ++ [.read b] }

/-- `RxGet` completing with `None`: nothing is removed (R53). -/
def rxNone (s : State) : State := { s with events := s.events ++ [.timeout] }

/-- `RxDrain`: every byte in the queue is removed in one step (R54). -/
def rxDrain (s : State) : State := { s with rxq := [], events := s.events ++ [.drain s.rxq] }

/-- `drain() -> count` (R151): how many bytes the `RxDrain` removes, and the state after it. -/
def drain (s : State) : Nat × State := (s.rxq.length, rxDrain s)

/-- The phases in which Transport waits in `RxGet` (R27, R89). -/
def Phase.reads : Phase → Bool
  | .syncOnly => true
  | .recvSync => true
  | .recvLen => true
  | .recvBody => true
  | .sendWait1 => true
  | .sendWait2T => true
  | .sendWait2N => true
  | .idle => false
  | .sendStart => false
  | .sendBackoff => false
  | .recvAck => false

/-- The deadline of the wait in progress (R248): `none` where the phase has no wait, or waits without a deadline. -/
def deadlineOf (s : State) : Option Nat :=
  match s.phase with
  | .syncOnly => some s.syncDeadline
  | .recvSync => some s.syncDeadline
  | .recvLen => s.byteDeadline
  | .recvBody => s.byteDeadline
  | .sendWait1 => s.pend.map (·.deadline)
  | .sendWait2T => s.pend.map (·.deadline)
  | .sendWait2N => s.pend.map (·.deadline)
  | .sendBackoff => s.pend.map (·.deadline)
  | .idle => none
  | .sendStart => none
  | .recvAck => none

/-- `s.now >= deadline`, false without a deadline (R32, R53). -/
def expired (s : State) : Bool :=
  match deadlineOf s with
  | none => false
  | some d => d ≤ s.now

/-- `dl(B)`, the deadline of a LEN-byte or body-byte read that begins now (R133). -/
def bodyDeadline (s : State) : Option Nat := s.par.bodyByteTimeout.map (s.now + ·)

/-! ### The send in progress -/

/-- The bytes of the send in progress. Without one, which no send phase is ever without (R35), there are none. -/
def pendFrame (s : State) : List Byte :=
  match s.pend with
  | none => []
  | some p => p.frame

/-- Starts a handshake wait after a write of the frame: the attempts made so far and the deadline (R153, R155, R157). -/
def armWait (attempts ms : Nat) (s : State) : State :=
  { s with pend := s.pend.map fun p => { p with attempts := attempts, deadline := s.now + ms } }

/-- Starts the back-off sleep (R156). -/
def armBackoff (s : State) : State :=
  { s with pend := s.pend.map fun p => { p with deadline := s.now + Config.tBackoff } }

/-! ### Outcomes -/

/-- The end of a Transport operation, the one counterpart of an exception's entry and of a return: the outcome goes to the
host, the block is `Idle` and no send is in progress (R230, R242). A CommandChannel that waits for it gets it. -/
def finishOp (r : OpResult) (s : State) : State :=
  { s with
    phase := .idle
    pend := none
    outlog := s.outlog ++ [r]
    exch := s.exch.map fun e => { e with got := some r } }

/-- An outcome that touches no field of the record of R23: a stateless operation's, or a refusal's. -/
def answer (r : OpResult) (s : State) : State := { s with outlog := s.outlog ++ [r] }

/-- Refusal: the host gets `Err(Refused)` and nothing else happens (R243). The source gives what is issued outside `Idle` no
consequence: the refusal is the model's own, as R243 asks a model to mark it (decision D18; notes/assumptions/41). -/
def refuse (s : State) : State := answer (.err .refused []) s

/-- Whether the host may issue a Transport operation: the block is `Idle` and no exchange of the host's is unresolved
(R21, R185, R243). -/
def State.free (s : State) : Bool := s.phase == .idle && s.exch.isNone && s.job.isNone

/-! ### The issue of an operation -/

/-- The issue of `sendFrame(F)` (R150). -/
def beginSend (frame : List Byte) (s : State) : State :=
  { s with
    pend := some { frame := frame, attempts := 0, deadline := Config.freeTime s.fresh }
    phase := .sendStart
    fresh := s.fresh + 1 }

/-- The issue of `syncToFrameStart(t)` (R130). -/
def beginSync (timeoutMs : Nat) (s : State) : State :=
  { s with syncDeadline := s.now + timeoutMs, phase := .syncOnly }

/-- The issue of `receiveFrame(t)` (R130). -/
def beginReceive (timeoutMs : Nat) (s : State) : State :=
  { s with syncDeadline := s.now + timeoutMs, phase := .recvSync }

end Sys2Proof.Machine
end

