-- ==== Sys2Proof/Machine/Codec.lean ====
section
/-! DEFINITION. FrameCodec: `checksum`, `encode` and `decode`, pure functions (R110 to R119), and their meanings. -/

namespace Sys2Proof.Machine

/-- LEN of a payload of `n` bytes: `n + LEN_BIAS` (R82). -/
def lenByte (b : LenBias) (n : Nat) : Byte := BitVec.ofNat 8 (n + b.toNat)

/-- `CHECKSUM` of a frame that `encode` builds (R86). -/
def frameChecksum (b : LenBias) (frameType : Byte) (payload : List Byte) : Byte :=
  checksumOf (lenByte b payload.length :: frameType :: payload)

/-- `encode(frameType, payload)` inside its domain, and nothing for a longer payload (R111, R112; notes/assumptions/39). -/
def encodeFrame (b : LenBias) (frameType : Byte) (payload : List Byte) : Option (List Byte) :=
  if payload.length ≤ maxPayload b then
    some (frameBytes (lenByte b payload.length) frameType payload (frameChecksum b frameType payload))
  else none

/-- The tests of `decode` on a complete body, in the order of R115. -/
def decodeBody (len : Byte) (body : List Byte) : OpResult :=
  if checksumOf (len :: body) ≠ 0x00#8 then .err .checksumMismatch body
  else if body.length < 2 then .err .tooShort body
  else .ok (.frame (typeOfBody body) (payloadOfBody body) (1 + body.length))

/-- `decode(rawFrame)` (R113 to R115). -/
def decodeRaw (b : LenBias) : List Byte → OpResult
  | [] => .err .truncated []
  | len :: rest =>
    if rest.length < follow b len then .err .truncated rest
    else decodeBody len (rest.take (follow b len))

/-- `checksum(xs)` (R110): stateless, never refused. -/
def execChecksum (xs : List Byte) (s : State) : Host.Outcome State Fault Refusal :=
  .next (answer (.ok (.byte (checksumOf xs))) s)

/-- `encode(frameType, payload)` (R112). A payload that is too long is refused: the source is silent there, and the refusal is
the model's own, as R111 asks a model to mark it (decision D3; notes/assumptions/39). -/
def execEncode (frameType : Byte) (payload : List Byte) (s : State) : Host.Outcome State Fault Refusal :=
  match encodeFrame s.par.lenBias frameType payload with
  | some bs => .next (answer (.ok (.bytes bs)) s)
  | none => .next (refuse s)

/-- `decode(rawFrame)` (R114): stateless, never refused. -/
def execDecode (rawFrame : List Byte) (s : State) : Host.Outcome State Fault Refusal :=
  .next (answer (decodeRaw s.par.lenBias rawFrame) s)

end Sys2Proof.Machine
end

