-- ==== Sys2Proof/Machine/Channel.lean ====
section
/-! DEFINITION. CommandChannel: `call` and `awaitCallback`, expanded over the block's operations (R180 to R186). -/

namespace Sys2Proof.Machine

/-- The block's side of `call` begins: the request is encoded and sent, and the channel waits for the handshake. A payload
that `encode` refuses ends the call at once with `Err(Refused)`, and nothing is sent (R111, R181). -/
def sendCommand (payload : List Byte) (expectReply : Bool) (replyTimeout : Nat) (s : State) : Option State :=
  (encodeFrame s.par.lenBias Config.typeRequest payload).map fun f =>
    beginSend f { s with exch := some { wait := .handshake expectReply replyTimeout, got := none } }

/-- `call(payload, expectReply)` by the host (R181): refused while an exchange is unresolved (R185). -/
def startCall (payload : List Byte) (expectReply : Bool) (replyTimeout : Nat) (s : State) : State :=
  if s.free then (sendCommand payload expectReply replyTimeout s).getD (refuse s) else refuse s

/-- The channel issues `receiveFrame(t)` and waits for its outcome (R181, R183). -/
def awaitFrame (wait : Wait) (timeoutMs : Nat) (s : State) : State :=
  beginReceive timeoutMs { s with exch := some { wait := wait, got := none } }

/-- `awaitCallback(t)` by the host: exactly `receiveFrame(t)` (R183). -/
def startAwait (timeoutMs : Nat) (s : State) : State :=
  if s.free then awaitFrame .callback timeoutMs s else refuse s

/-- What `call` makes of the reply frame (R181, R182). -/
def replyResult (body : List Byte) (checksumOk : Bool) : OpResult :=
  if checksumOk then
    (if body.length < 2 then .err .tooShort [] else .ok (.reply (some (payloadOfBody body))))
  else .err .checksumMismatch []

/-- What the channel does with an outcome of the block's. -/
inductive ChannelAct where
  /-- It issues `receiveFrame` for the reply. -/
  | receive (timeoutMs : Nat)
  /-- The call is resolved. -/
  | resolved (r : OpResult)
  deriving DecidableEq, Repr

/-- The next act of `call` or `awaitCallback` (R181, R183). -/
def channelNext (wait : Wait) (r : OpResult) : ChannelAct :=
  match wait, r with
  | .handshake true t, .ok (.acknowledged _ _) => .receive t
  | .handshake false _, .ok (.acknowledged _ _) => .resolved (.ok (.reply none))
  | .handshake _ _, r => .resolved r
  | .reply, .ok (.received body ok) => .resolved (replyResult body ok)
  | .reply, r => .resolved r
  | .callback, r => .resolved r

end Sys2Proof.Machine
end

