-- ==== Sys2Proof/Machine/Commands.lean ====
section
/-! DEFINITION. The meanings of the fourteen command opcodes: each is one `call` of the CommandChannel (R181, R200 to R213).
The block carries the payload and does not decode it (R94). -/

namespace Sys2Proof.Machine

/-- Get init data: no arguments, a reply with the member bitmask (R200). -/
def execGetInitData (s : State) : Host.Outcome State Fault Refusal :=
  .next (startCall (instrBytes .getInitData) true s.par.replyTimeout s)

/-- Get capabilities: no arguments, a reply (R201). -/
def execGetCapabilities (s : State) : Host.Outcome State Fault Refusal :=
  .next (startCall (instrBytes .getCapabilities) true s.par.replyTimeout s)

/-- Soft reset: "none, no reply expected"; its later callback is taken by a `receiveFrame` of the host's (R202). -/
def execSoftReset (s : State) : Host.Outcome State Fault Refusal :=
  .next (startCall (instrBytes .softReset) false s.par.replyTimeout s)

/-- Get protocol version: the rule gives neither arguments nor response (R203). -/
def execGetProtocolVersion (args : List Byte) (s : State) : Host.Outcome State Fault Refusal :=
  .next (startCall (instrBytes (.getProtocolVersion args)) (Config.replyUnstated 0x09#8) s.par.replyTimeout s)

/-- Get library version: no arguments, a reply (R204). -/
def execGetLibraryVersion (s : State) : Host.Outcome State Fault Refusal :=
  .next (startCall (instrBytes .getLibraryVersion) true s.par.replyTimeout s)

/-- Get home/node id: no arguments, a reply (`homeNodeOf` reads it) (R205). -/
def execGetHomeNodeId (s : State) : Host.Outcome State Fault Refusal :=
  .next (startCall (instrBytes .getHomeNodeId) true s.par.replyTimeout s)

/-- NVM get manufacturer id: no arguments, a reply (R206). -/
def execNvmGetManufacturerId (s : State) : Host.Outcome State Fault Refusal :=
  .next (startCall (instrBytes .nvmGetManufacturerId) true s.par.replyTimeout s)

/-- NVM extended read: three address bytes and two more, a reply with up to 16 data bytes (R207). -/
def execNvmExtRead (addr : Addr24) (field0 field1 : Byte) (s : State) : Host.Outcome State Fault Refusal :=
  .next (startCall (instrBytes (.nvmExtRead addr field0 field1)) true s.par.replyTimeout s)

/-- NVM extended write (range): three address bytes, a length and data, a reply with a status byte (R208). -/
def execNvmExtWriteRange (addr : Addr24) (rest : List Byte) (s : State) : Host.Outcome State Fault Refusal :=
  .next (startCall (instrBytes (.nvmExtWriteRange addr rest)) true s.par.replyTimeout s)

/-- NVM extended write (single byte): three address bytes and one data byte, a reply with a status byte (R209). -/
def execNvmExtWriteByte (addr : Addr24) (value : Byte) (s : State) : Host.Outcome State Fault Refusal :=
  .next (startCall (instrBytes (.nvmExtWriteByte addr value)) true s.par.replyTimeout s)

/-- Factory reset: "none, no reply"; the soft-reset sequence that follows is `HostOp.factoryReset` (R210). -/
def execFactoryReset (s : State) : Host.Outcome State Fault Refusal :=
  .next (startCall (instrBytes .factoryReset) false s.par.replyTimeout s)

/-- Add node to network: a first reply, then callbacks; the stop command awaits none (R211). -/
def execAddNode (mode opts : Byte) (s : State) : Host.Outcome State Fault Refusal :=
  .next (startCall (instrBytes (.addNode mode opts)) (mode != Config.modeStop 0x4A#8) s.par.membershipTimeout s)

/-- Remove node from network: a first reply, then callbacks; the stop command awaits none (R212). -/
def execRemoveNode (mode opts : Byte) (s : State) : Host.Outcome State Fault Refusal :=
  .next (startCall (instrBytes (.removeNode mode opts)) (mode != Config.modeStop 0x4B#8) s.par.membershipTimeout s)

/-- Firmware-update NVM meta-ops: a sub-command byte; the rule gives no response (R213). -/
def execFwUpdateNvm (sub : Byte) (args : List Byte) (s : State) : Host.Outcome State Fault Refusal :=
  .next (startCall (instrBytes (.fwUpdateNvm sub args)) (Config.replyUnstated 0x78#8) s.par.replyTimeout s)

end Sys2Proof.Machine
end

