-- ==== Sys2Proof/Machine/HostLayer.lean ====
section
/-! DEFINITION. The layers over CommandChannel: NVMOperations (R190 to R196) and MembershipStateMachine (R197). -/

namespace Sys2Proof.Machine

/-- What a host operation does next. -/
inductive HostAct where
  /-- One `call`. -/
  | call (payload : List Byte) (expectReply : Bool) (replyTimeout : Nat)
  /-- One `awaitCallback`. -/
  | await (timeoutMs : Nat)
  /-- It ends. -/
  | done (r : OpResult)
  deriving DecidableEq, Repr

/-! ### NVMOperations -/

/-- The next chunk of a `readRange`, or its end (R192). That `readRange` itself composes the calls of a longer range is the
model's choice (notes/assumptions/36), and so is that an empty range sends nothing (notes/assumptions/38). -/
def readNext (par : Params) (addr left : Nat) (acc : List Byte) : Job × HostAct :=
  (.read addr (min par.chunkMax left) (left - min par.chunkMax left) (readPayload addr (min par.chunkMax left)) acc,
   if left = 0 then .done (.ok (.data acc))
   else .call (readPayload addr (min par.chunkMax left)) true par.replyTimeout)

/-- A response of a `readRange` chunk: the echo check the source recommends, then up to `CHUNK_MAX` data bytes (R192),
however many were asked for (the model's choice, notes/assumptions/36). -/
def readGot (par : Params) (addr chunk left : Nat) (request acc : List Byte) (r : OpResult) : Job × HostAct :=
  match r with
  | .ok (.reply (some p)) =>
    if Config.nvmEchoOk request p then
      readNext par (addr + chunk) left (acc ++ (Config.nvmReadData p).take par.chunkMax)
    else (.read addr chunk left request acc, .done (.err .transferError []))
  | r => (.read addr chunk left request acc, .done r)

/-- The next chunk of a `writeRange`, or its end (R194). That an empty range sends nothing is the model's choice
(notes/assumptions/38). -/
def writeNext (par : Params) (addr : Nat) (bytes : List Byte) : Job × HostAct :=
  (.write addr (bytes.take par.chunkMax).length (bytes.drop par.chunkMax),
   if bytes.isEmpty then .done (.ok .unit)
   else .call (writePayload addr (bytes.take par.chunkMax)) true par.replyTimeout)

/-- A response of a `writeRange` chunk: a zero status is a failure (R193, R194, R196). No echo is checked in a write (the
model's choice, notes/assumptions/37). -/
def writeGot (par : Params) (addr chunk : Nat) (rest : List Byte) (r : OpResult) : Job × HostAct :=
  match r with
  | .ok (.reply (some p)) =>
    if statusOf p = 0x00#8 then (.write addr chunk rest, .done (.err .writeFailed []))
    else writeNext par (addr + chunk) rest
  | r => (.write addr chunk rest, .done r)

/-- How many bytes the next chunk of a `fill` covers: `CHUNK_MAX`, and in a last, partial chunk an open number of them, at most
`CHUNK_MAX` (R194, R195, U25). -/
def fillCount (par : Params) (left : Nat) : Nat :=
  if par.chunkMax ≤ left then par.chunkMax else min par.chunkMax (Config.fillTail left)

/-- The next chunk of a `fill`, at the offset reached so far, or its end (R195). That what is left of a size that is no multiple
of `CHUNK_MAX` takes one more write, and that an empty fill sends nothing, are the model's choices (notes/assumptions/38). -/
def fillNext (par : Params) (value : Byte) (total written : Nat) : Job × HostAct :=
  (.fill value total (min par.chunkMax (total - written)) written,
   if total ≤ written then .done (.ok .unit)
   else .call (writePayload written (List.replicate (fillCount par (total - written)) value)) true par.replyTimeout)

/-- A response of a `fill` chunk: "a mid-run failure aborts and reports how far it got" (R195). No echo is checked (the model's
choice, notes/assumptions/37). -/
def fillGot (par : Params) (value : Byte) (total chunk written : Nat) (r : OpResult) : Job × HostAct :=
  match r with
  | .ok (.reply (some p)) =>
    if statusOf p = 0x00#8 then (.fill value total chunk written, .done (.stopped .writeFailed written))
    else fillNext par value total (written + chunk)
  | .err k _ => (.fill value total chunk written, .done (.stopped k written))
  | r => (.fill value total chunk written, .done r)

/-- The response of `writeByte`: it "fails when the response's status byte is zero" (R193). No echo is checked (the model's
choice, notes/assumptions/37). -/
def writeByteResult (r : OpResult) : OpResult :=
  match r with
  | .ok (.reply (some p)) => if statusOf p = 0x00#8 then .err .writeFailed [] else .ok .unit
  | r => r

/-- The response of `identify` (R191). The echoed opcode is not checked (the model's choice, notes/assumptions/37). That every
response answers `Ok`, one without the five bytes and one whose status field may report a failure included, is the model's
choice too (notes/assumptions/42). -/
def identifyResult (r : OpResult) : OpResult :=
  match r with
  | .ok (.reply (some p)) => .ok (.identity (Config.manufacturerCode p) (Config.deviceInfo p))
  | r => r

/-! ### MembershipStateMachine -/

/-- The opcode of a membership protocol (R211, R212). -/
def memberOpcode (adding : Bool) : Byte := if adding then 0x4A#8 else 0x4B#8

/-- A membership command with a mode (R211, R212). The model uses one options byte for each opcode and mode
(notes/assumptions/22). -/
def memberCommand (adding : Bool) (mode : Byte) : List Byte :=
  if adding then instrBytes (.addNode mode (Config.txOptions 0x4A#8 mode))
  else instrBytes (.removeNode mode (Config.txOptions 0x4B#8 mode))

/-- The "start" command of a membership protocol (R197), with a free mode of its own (notes/assumptions/22). -/
def memberStart (adding : Bool) : List Byte := memberCommand adding (Config.modeStart (memberOpcode adding))

/-- The "stop" command of a membership protocol (R197): the model's two stops of one protocol are the same command
(notes/assumptions/22). -/
def memberStop (adding : Bool) : List Byte := memberCommand adding (Config.modeStop (memberOpcode adding))

/-- The error an outcome reports, a bad checksum among them (R186, R233). -/
def errorOf : OpResult → Option ErrKind
  | .err k _ => some k
  | .stopped k _ => some k
  | .membershipErr k _ _ => some k
  | .ok (.received _ false) => some .checksumMismatch
  | .ok _ => none

/-- The loop ends: "a cleanup \"stop\" command is always sent on exit regardless of outcome" (R197). -/
def memberExit (par : Params) (adding : Bool) (final : Membership) (node : Option Byte) (error : Option ErrKind) :
    Job × HostAct :=
  (.memberCleanup final node error, .call (memberStop adding) false par.membershipTimeout)

/-- The status of a frame by "a fixed command-and-status byte scheme" (R184, R197): its command byte, payload byte 0, is the
protocol's opcode, or it is no frame of this protocol (notes/assumptions/22). -/
def memberStatusOf (adding : Bool) (payload : List Byte) : MemberStatus :=
  if payload.head? = some (memberOpcode adding) then Config.memberStatus (memberOpcode adding) payload else .unknown

/-- A frame's payload arrives in the membership loop (R197). A status is taken in whatever state it comes: that one out of the
listed order is no error is the model's choice (notes/assumptions/35). -/
def memberStatus (par : Params) (adding : Bool) (state : Membership) (node : Option Byte) (payload : List Byte) :
    Job × HostAct :=
  match memberStatusOf adding payload with
  | .learnReady => (.member adding .learnReady node, .await par.membershipTimeout)
  | .nodeFound => (.member adding .nodeFound node, .await par.membershipTimeout)
  | .member =>
    (.member adding .addingMember (some (Config.memberId (memberOpcode adding) payload)), .await par.membershipTimeout)
  | .protocolDone => (.memberStop adding node, .call (memberStop adding) false par.membershipTimeout)
  | .failed => memberExit par adding .failed node none
  | .unknown => (.member adding state node, .await par.membershipTimeout)

/-- The first reply, or a callback, or a failure of either, whose error is kept (R197, R244). -/
def memberGot (par : Params) (adding : Bool) (state : Membership) (node : Option Byte) (r : OpResult) :
    Job × HostAct :=
  match r with
  | .ok (.reply (some p)) => memberStatus par adding state node p
  | .ok (.received body true) => memberStatus par adding state node (payloadOfBody body)
  | r => memberExit par adding .failed node (errorOf r)

/-- The explicit stop has returned: `Done`, or `Failed` with its error (R197, R244). -/
def memberStopped (par : Params) (adding : Bool) (node : Option Byte) (r : OpResult) : Job × HostAct :=
  match r with
  | .ok _ => memberExit par adding .done node none
  | r => memberExit par adding .failed node (errorOf r)

/-- The cleanup stop has returned: the protocol ends, and the first error it met, the cleanup's own included, is passed up
(R197, R244). That a protocol which met no error answers `Ok`, with `Failed` too when the peer's own status ended it so, is the
model's choice (notes/assumptions/40). -/
def memberResult (final : Membership) (node : Option Byte) (error : Option ErrKind) (r : OpResult) : OpResult :=
  match error.or (errorOf r) with
  | none => .ok (.membership final node)
  | some k => .membershipErr k final node

/-! ### The host operations -/

/-- The first act of an operation of the layers over CommandChannel. -/
def jobBegin (par : Params) : HostOp → Option (Job × HostAct)
  | .call _ _ _ => none
  | .awaitCallback _ => none
  | .identify => some (.identify, .call (instrBytes .nvmGetManufacturerId) true par.replyTimeout)
  | .readRange addr n => some (readNext par addr.toNat n.toNat [])
  | .writeByte addr v => some (.writeByte, .call (instrBytes (.nvmExtWriteByte addr v)) true par.replyTimeout)
  | .writeRange addr bytes => some (writeNext par addr.toNat bytes)
  | .fill v n => some (fillNext par v n 0)
  | .softReset t => some (.softReset t, .call (instrBytes .softReset) false par.replyTimeout)
  | .factoryReset t => some (.factoryReset t, .call (instrBytes .factoryReset) false par.replyTimeout)
  | .addNode => some (.member true .idle none, .call (memberStart true) true par.membershipTimeout)
  | .removeNode => some (.member false .idle none, .call (memberStart false) true par.membershipTimeout)

/-- The next act of an operation, when its `call` or `awaitCallback` has returned `r`. -/
def jobNext (par : Params) (j : Job) (r : OpResult) : Job × HostAct :=
  match j with
  | .identify => (j, .done (identifyResult r))
  | .read addr chunk left request acc => readGot par addr chunk left request acc r
  | .writeByte => (j, .done (writeByteResult r))
  | .write addr chunk rest => writeGot par addr chunk rest r
  | .fill v total chunk written => fillGot par v total chunk written r
  | .factoryReset t =>
    match r with
    | .ok _ => (.softReset t, .call (instrBytes .softReset) false par.replyTimeout)
    | r => (j, .done r)
  | .softReset t =>
    match r with
    | .ok _ => (.resetCallback, .await t)
    | r => (j, .done r)
  | .resetCallback => (j, .done r)
  | .member adding state node => memberGot par adding state node r
  | .memberStop adding node => memberStopped par adding node r
  | .memberCleanup final node error => (j, .done (memberResult final node error r))

/-- What an operation hands on when `encode` refuses the payload of its next `call` (R111): what it makes of the error `Refused`,
how far a `fill` got included (R195). -/
def callRefused (par : Params) (j : Job) : OpResult :=
  match (jobNext par j (.err .refused [])).2 with
  | .done r => r
  | .call _ _ _ => .err .refused []
  | .await _ => .err .refused []

/-- The host operation ends and its outcome is its caller's. -/
def jobDone (r : OpResult) (s : State) : State := answer r { s with exch := none, job := none }

/-- One act of a host operation over an idle block. -/
def perform (j : Job) (a : HostAct) (s : State) : State :=
  match a with
  | .call p e t => (sendCommand p e t { s with job := some j }).getD (jobDone (callRefused s.par j) s)
  | .await t => awaitFrame .callback t { s with job := some j }
  | .done r => jobDone r s

/-- A `call` or `awaitCallback` is resolved: its caller is a host operation, or the host itself. -/
def resolve (r : OpResult) (s : State) : State :=
  match s.job with
  | none => jobDone r s
  | some j => perform (jobNext s.par j r).1 (jobNext s.par j r).2 s

/-- The host's next step, if it has one: the outcome it waits for has come, and the block is idle again (R21). -/
def hostStep (s : State) : Option State :=
  match s.phase, s.exch with
  | .idle, some { wait := w, got := some r } =>
    match channelNext w r with
    | .receive t => some (awaitFrame .reply t s)
    | .resolved r' => some (resolve r' s)
  | _, _ => none

/-- The host begins an operation of its layers: refused while another is unresolved (R185). -/
def startHostOp (h : HostOp) (s : State) : State :=
  match h with
  | .call p e t => startCall p e (t.getD s.par.replyTimeout) s
  | .awaitCallback t => startAwait t s
  | h =>
    if s.free then
      match jobBegin s.par h with
      | some (j, a) => perform j a s
      | none => s
    else refuse s

end Sys2Proof.Machine
end

