-- ==== Sys2Proof/Machine/Receive.lean ====
section
/-! DEFINITION. Transport's receive side: the steps of R134 to R137 and the issue of its two operations (R130, R131, R133). -/

namespace Sys2Proof.Machine

/-- A byte read in `SyncOnly` (R134). -/
def onSyncOnly (b : Byte) (s : State) : State :=
  if b = Config.sof then finishOp (.ok .unit) s else s

/-- A byte read in `RecvSync` (R134). -/
def onRecvSync (b : Byte) (s : State) : State :=
  if b = Config.sof then { s with byteDeadline := bodyDeadline s, phase := .recvLen } else s

/-- The LEN byte read in `RecvLen` (R135). -/
def onRecvLen (len : Byte) (s : State) : State :=
  if follow s.par.lenBias len = 0 then { s with rxLen := len, rxBuf := [], phase := .recvAck }
  else { s with rxLen := len, rxBuf := [], byteDeadline := bodyDeadline s, phase := .recvBody }

/-- A body byte read in `RecvBody` (R136). -/
def onRecvBody (b : Byte) (s : State) : State :=
  if s.rxBuf.length + 1 = follow s.par.lenBias s.rxLen then { s with rxBuf := s.rxBuf ++ [b], phase := .recvAck }
  else { s with rxBuf := s.rxBuf ++ [b], byteDeadline := bodyDeadline s }

/-- The hunt's deadline (R134, R232). -/
def syncTimeout (s : State) : State := finishOp (.err .frameSyncTimeout []) s

/-- The deadline of the LEN-byte read (R135, R235): no other write. -/
def lenTimeout (s : State) : State := finishOp (.err .frameBodyTimeout []) s

/-- The deadline of a body-byte read (R136, R140, R235): "the bytes in `s.rxBuf` are dropped" (notes/assumptions/34). -/
def bodyTimeout (s : State) : State := finishOp (.err .frameBodyTimeout []) { s with rxBuf := [] }

/-- The step in `RecvAck`: the flag, one `ACK`, the result (R137). -/
def finishReceive (s : State) : State :=
  finishOp (.ok (.received s.rxBuf (chkFlag s.rxLen s.rxBuf)))
    (txAck { s with chkOk := chkFlag s.rxLen s.rxBuf })

/-- `syncToFrameStart(timeoutMs)` (R131), up to its first wait. -/
def execSyncToFrameStart (timeoutMs : Nat) (s : State) : Host.Outcome State Fault Refusal :=
  .next (if s.free then beginSync timeoutMs s else refuse s)

/-- `receiveFrame(timeoutMs)` (R133), up to its first wait. -/
def execReceiveFrame (timeoutMs : Nat) (s : State) : Host.Outcome State Fault Refusal :=
  .next (if s.free then beginReceive timeoutMs s else refuse s)

end Sys2Proof.Machine
end

