-- ==== Sys2Proof/Machine/Send.lean ====
section
/-! DEFINITION. Transport's send side: the steps of R153 to R159, `drain` (R151) and the issue of `sendFrame` (R150, R152). -/

namespace Sys2Proof.Machine

/-- The pre-send drain and, if it found bytes, one `ACK` (R151, R153). -/
def preSend (s : State) : State :=
  if staleFlag (drain s).1 then txAck { (drain s).2 with hadStale := staleFlag (drain s).1 }
  else { (drain s).2 with hadStale := staleFlag (drain s).1 }

/-- The step in `SendStart` (R153). -/
def startSend (s : State) : State :=
  { armWait 1 Config.tAckFirst (txPut (pendFrame s) (preSend s)) with phase := .sendWait1 }

/-- A byte read in `SendWait1` (R154, R156). -/
def onSendWait1 (b : Byte) (s : State) : State :=
  if b = Config.ack then finishOp (.ok (.acknowledged 1 .first)) s
  else { armBackoff (txAck s) with phase := .sendBackoff }

/-- The deadline of the first handshake wait (R155). -/
def onSendTimeout (s : State) : State :=
  { armWait 2 Config.tAckRetryTimeout (txPut (pendFrame s) (txAck s)) with phase := .sendWait2T }

/-- The end of the back-off (R157). -/
def resumeSend (s : State) : State :=
  { armWait 2 Config.tAckRetryNonAck (txPut (pendFrame s) (drain s).2) with phase := .sendWait2N }

/-- A byte read in a second handshake wait (R158, R159). -/
def onSendWait2 (path : SendPath) (b : Byte) (s : State) : State :=
  if b = Config.ack then finishOp (.ok (.acknowledged 2 path)) s
  else finishOp (.err .noAcknowledgment []) s

/-- The deadline of a second handshake wait (R158, R159, R234). -/
def sendFailed (s : State) : State := finishOp (.err .noAcknowledgment []) s

/-- `drain()` (R151): "it occurs only inside `sendFrame`, at two places", so it runs as the step of Transport that begins with
it, in `SendStart` (R153) and at the end of `SendBackoff` (R157). Anywhere else there is no drain to run: the host has no such
operation (R186), nothing leaves the queue (R35 (5)), and what was asked is refused (notes/assumptions/12). -/
def execDrain (s : State) : Host.Outcome State Fault Refusal :=
  if s.phase = .sendStart then .next (startSend s)
  else if s.phase = .sendBackoff ∧ expired s = true then .next (resumeSend s)
  else .next (refuse s)

/-- `sendFrame(frameBytes)` (R150, R152), up to its first step. -/
def execSendFrame (frame : List Byte) (s : State) : Host.Outcome State Fault Refusal :=
  .next (if s.free then beginSend frame s else refuse s)

end Sys2Proof.Machine
end

