-- ==== Sys2Proof/Machine/Transport.lean ====
section
/-! DEFINITION. One step of Transport in any phase: the tables of R140 and R162, and the block's decoder (R89). -/

namespace Sys2Proof.Machine

/-- What a received byte means, by the phase that reads it: the whole decoder of the block (R89). -/
def react (b : Byte) (s : State) : State :=
  match s.phase with
  | .syncOnly => onSyncOnly b s
  | .recvSync => onRecvSync b s
  | .recvLen => onRecvLen b s
  | .recvBody => onRecvBody b s
  | .sendWait1 => onSendWait1 b s
  | .sendWait2T => onSendWait2 .afterTimeout b s
  | .sendWait2N => onSendWait2 .afterNonAck b s
  | .idle => s
  | .sendStart => s
  | .sendBackoff => s
  | .recvAck => s

/-- What `None` from `RxGet` means, by phase (R140, R162). -/
def onTimeout (s : State) : State :=
  match s.phase with
  | .syncOnly => syncTimeout s
  | .recvSync => syncTimeout s
  | .recvLen => lenTimeout s
  | .recvBody => bodyTimeout s
  | .sendWait1 => onSendTimeout s
  | .sendWait2T => sendFailed s
  | .sendWait2N => sendFailed s
  | .idle => s
  | .sendStart => s
  | .sendBackoff => s
  | .recvAck => s

/-- A step in a phase that reads: a queued byte wins over an expired deadline (R53, R241); with neither, no step. -/
def readStep (s : State) : Option State :=
  match s.rxq with
  | b :: rest => some (react b (rxTake b rest s))
  | [] => if expired s then some (onTimeout (rxNone s)) else none

/-- Transport's next step, if one is enabled. -/
def transportStep (s : State) : Option State :=
  match s.phase with
  | .idle => none
  | .sendStart => some (startSend s)
  | .sendBackoff => if expired s then some (resumeSend s) else none
  | .recvAck => some (finishReceive s)
  | .syncOnly => readStep s
  | .recvSync => readStep s
  | .recvLen => readStep s
  | .recvBody => readStep s
  | .sendWait1 => readStep s
  | .sendWait2T => readStep s
  | .sendWait2N => readStep s

/-- Transport reads up to `n` bytes that are in the queue, for as long as it is in a phase that reads. -/
def readQueued : Nat → State → State
  | 0, s => s
  | n + 1, s =>
    if s.phase.reads then
      match s.rxq with
      | [] => s
      | b :: rest => readQueued n (react b (rxTake b rest s))
    else s

end Sys2Proof.Machine
end

