-- ==== Sys2Proof/Machine/Link.lean ====
section
/-! DEFINITION. The meanings of the units on the link: the four sentinels (R84) and the two frames (R85). -/

namespace Sys2Proof.Machine

/-- A unit arrives on the link: the peer appends its bytes (R51), and Transport, where it waits for bytes, reads as many
(R89). In a phase that reads none they stay in the queue. -/
def receiveUnit (bytes : List Byte) (s : State) : Host.Outcome State Fault Refusal :=
  andThen (deliver bytes s) fun t => .next (readQueued bytes.length t)

/-- `SOF` arrives (R84): it ends a hunt; in a handshake wait it is a byte that is not `ACK`. -/
def execSof (s : State) : Host.Outcome State Fault Refusal := receiveUnit [Config.sof] s

/-- `ACK` arrives (R84): success in a handshake wait, discarded in a hunt. -/
def execAck (s : State) : Host.Outcome State Fault Refusal := receiveUnit [Config.ack] s

/-- `NAK` arrives (R84): a byte that is not `ACK` in a handshake wait, discarded in a hunt. -/
def execNak (s : State) : Host.Outcome State Fault Refusal := receiveUnit [Config.nak] s

/-- `CAN` arrives (R84): a byte that is not `ACK` in a handshake wait, discarded in a hunt. -/
def execCan (s : State) : Host.Outcome State Fault Refusal := receiveUnit [Config.can] s

/-- A frame of TYPE REQUEST arrives (R85); Transport does not inspect TYPE (R90). -/
def execRequest (len : Byte) (payload : List Byte) (chk : Byte) (s : State) : Host.Outcome State Fault Refusal :=
  receiveUnit (frameBytes len Config.typeRequest payload chk) s

/-- A frame of TYPE RESPONSE arrives (R85): a reply or a callback, which nothing in its header tells apart. -/
def execResponse (len : Byte) (payload : List Byte) (chk : Byte) (s : State) : Host.Outcome State Fault Refusal :=
  receiveUnit (frameBytes len Config.typeResponse payload chk) s

end Sys2Proof.Machine
end

