-- ==== Sys2Proof/Machine/Dispatch.lean ====
section
/-! DEFINITION. exec: one arm per instruction, each one call of its meaning. -/

namespace Sys2Proof.Machine

def exec (i : Instr) (s : State) : Host.Outcome State Fault Refusal :=
  match i with
  | .sof => Sys2Proof.Machine.execSof s
  | .ack => Sys2Proof.Machine.execAck s
  | .nak => Sys2Proof.Machine.execNak s
  | .can => Sys2Proof.Machine.execCan s
  | .request len payload chk => Sys2Proof.Machine.execRequest len payload chk s
  | .response len payload chk => Sys2Proof.Machine.execResponse len payload chk s
  | .checksum xs => Sys2Proof.Machine.execChecksum xs s
  | .encode t payload => Sys2Proof.Machine.execEncode t payload s
  | .decode raw => Sys2Proof.Machine.execDecode raw s
  | .syncToFrameStart t => Sys2Proof.Machine.execSyncToFrameStart t s
  | .receiveFrame t => Sys2Proof.Machine.execReceiveFrame t s
  | .drain => Sys2Proof.Machine.execDrain s
  | .sendFrame bs => Sys2Proof.Machine.execSendFrame bs s
  | .getInitData => Sys2Proof.Machine.execGetInitData s
  | .getCapabilities => Sys2Proof.Machine.execGetCapabilities s
  | .softReset => Sys2Proof.Machine.execSoftReset s
  | .getProtocolVersion args => Sys2Proof.Machine.execGetProtocolVersion args s
  | .getLibraryVersion => Sys2Proof.Machine.execGetLibraryVersion s
  | .getHomeNodeId => Sys2Proof.Machine.execGetHomeNodeId s
  | .nvmGetManufacturerId => Sys2Proof.Machine.execNvmGetManufacturerId s
  | .nvmExtRead addr x y => Sys2Proof.Machine.execNvmExtRead addr x y s
  | .nvmExtWriteRange addr rest => Sys2Proof.Machine.execNvmExtWriteRange addr rest s
  | .nvmExtWriteByte addr v => Sys2Proof.Machine.execNvmExtWriteByte addr v s
  | .factoryReset => Sys2Proof.Machine.execFactoryReset s
  | .addNode mode opts => Sys2Proof.Machine.execAddNode mode opts s
  | .removeNode mode opts => Sys2Proof.Machine.execRemoveNode mode opts s
  | .fwUpdateNvm sub args => Sys2Proof.Machine.execFwUpdateNvm sub args s

end Sys2Proof.Machine
end

