-- ==== Sys2Proof/Machine/Schedule.lean ====
section
/-! DEFINITION. The four agents (R20): how an instruction is fetched, and what each move of an agent does. -/

namespace Sys2Proof.Machine

/-- Bytes that are no instruction of the table. On the link they arrive like any others (R90, R92, R93); as a payload they
are carried by a `call` like any other (R215). So is a listed opcode with arguments of another shape than its rule's; whether
a reply is expected to it is free too, by the model's choice (notes/assumptions/33). -/
def carryImage (im : Image) (s : State) : Host.Outcome State Fault Refusal :=
  match im with
  | .link bytes => receiveUnit bytes s
  | .command payload => .next (startCall payload (Config.replyUnstated (payload.headD 0x00#8)) s.par.replyTimeout s)
  | .operation i => exec i s

/-- Decodes and runs an image. -/
def runImage (im : Image) (s : State) : Host.Outcome State Fault Refusal :=
  match decodeImage s.par.lenBias im with
  | .ok i => exec i s
  | .error _ => carryImage im s

/-- The deadline that time may not pass: that of an `RxGet` on an empty queue, which completes "at the first moment"
its deadline is reached (R53). Everything else lets time go on (R32, R56, R277). -/
def timeBound (s : State) : Option Nat :=
  if s.phase.reads && s.rxq.isEmpty then deadlineOf s else none

/-- Time advances by `ms`, or up to the bound. -/
def advance (ms : Nat) (s : State) : State :=
  match timeBound s with
  | none => { s with now := s.now + ms }
  | some d => if s.now + ms ≤ d then { s with now := s.now + ms } else { s with now := max s.now d }

/-- What is left of `ms` when time has advanced up to the bound. -/
def timeLeft (ms : Nat) (s : State) : Nat := s.now + ms - (advance ms s).now

/-- A move of the Time agent. At an expired deadline the waiting `RxGet` completes first; a part of the advance that lies
past a deadline stays in the schedule. -/
def passTime (ms : Nat) (s : State) : State :=
  if s.phase.reads && s.rxq.isEmpty && expired s then onTimeout (rxNone { s with sched := .time ms :: s.sched })
  else if timeLeft ms s = 0 then advance ms s
  else { advance ms s with sched := .time (timeLeft ms s) :: s.sched }

/-- One move of one agent. A move of Transport's or of the host's that is not enabled changes nothing. -/
def runMove (m : Move) (s : State) : Host.Outcome State Fault Refusal :=
  match m with
  | .transport => .next ((transportStep s).getD s)
  | .time ms => .next (passTime ms s)
  | .peer bytes => deliver bytes s
  | .host => .next ((hostStep s).getD s)
  | .start h => .next (startHostOp h s)
  | .fetch im => runImage im s

/-- With an empty schedule host and peer are silent: Transport goes on if it can, else a host operation in progress, else
time passes, by a free amount. -/
def autoStep (s : State) : State :=
  match transportStep s with
  | some t => t
  | none =>
    match hostStep s with
    | some t => t
    | none => advance (Config.freeAdvance s.fresh) { s with fresh := s.fresh + 1 }

/-- The step of the whole system: the next move of the schedule, taken off it. -/
def scheduleStep (s : State) : Host.Outcome State Fault Refusal :=
  match s.sched with
  | [] => .next (autoStep s)
  | m :: rest => runMove m { s with sched := rest }

/-- The state with one more image to fetch, before everything else. -/
def pushImage (im : Image) (s : State) : State := { s with sched := .fetch im :: s.sched }

end Sys2Proof.Machine
end

