-- ==== Sys2Proof/Machine/Step.lean ====
section
/-! DEFINITION. step, and how a word of the opcode table is put where step fetches its next instruction. -/

namespace Sys2Proof.Machine

/-- One step. -/
def step (s : State) : Host.Outcome State Fault Refusal := scheduleStep s

/-- `s` with the instruction of the table's word `w` next in the schedule, which is where step fetches. -/
def State.withFetchWord (s : State) (nbits w : Nat) : State :=
  pushImage (imageOfTableWord s.par.lenBias nbits w) s

end Sys2Proof.Machine
end

