-- ==== Sys2Proof/Machine/Session.lean ====
section
/-! DEFINITION. Opening the link, before there is a machine (R236, R260, R261, R263). -/

namespace Sys2Proof.Machine

/-- The start of a session: when the port cannot be opened there is no Transport and no state, only `LinkOpenFailure`;
when it can, a Transport over whatever the queue holds. -/
def openLink (opens : Bool) (rxq : List Byte) (now : Nat) (par : Params) : Except ErrKind State :=
  if opens then .ok (State.created rxq now par) else .error .linkOpenFailure

end Sys2Proof.Machine
end

