-- ==== Sys2Proof/Safety.lean ====
section
/-! DEFINITION. What counts as a safe state and a safe step: the invariants of R35, and the histories of R23 and R69. -/

namespace Sys2Proof.Safety
open Sys2Proof.Machine

/-- The five send phases of R35 (1). -/
def sendPhase : Phase → Bool
  | .sendStart => true
  | .sendWait1 => true
  | .sendWait2T => true
  | .sendBackoff => true
  | .sendWait2N => true
  | .idle => false
  | .syncOnly => false
  | .recvSync => false
  | .recvLen => false
  | .recvBody => false
  | .recvAck => false

/-- The `attempts` of each send phase (R35 (2)); 0 elsewhere, where there is no send. -/
def attemptsIn : Phase → Nat
  | .sendStart => 0
  | .sendWait1 => 1
  | .sendBackoff => 1
  | .sendWait2T => 2
  | .sendWait2N => 2
  | .idle => 0
  | .syncOnly => 0
  | .recvSync => 0
  | .recvLen => 0
  | .recvBody => 0
  | .recvAck => 0

/-- R35 (1): a send is in progress exactly in the send phases. -/
abbrev PendOk (s : State) : Prop := s.pend.isSome = sendPhase s.phase

/-- R35 (2): the attempts so far are those of the phase. -/
abbrev AttemptsOk (s : State) : Prop := ∀ p ∈ s.pend, p.attempts = attemptsIn s.phase

/-- R35 (3): an unfinished body is short of `FOLLOW(LEN)`, a finished one has it. -/
abbrev BodyOk (s : State) : Prop :=
  (s.phase = .recvBody → s.rxBuf.length < follow s.par.lenBias s.rxLen) ∧
  (s.phase = .recvAck → s.rxBuf.length = follow s.par.lenBias s.rxLen)

/-- The receive queue stays within a finite `RX_CAPACITY` (R52). -/
abbrev QueueOk (s : State) : Prop := ∀ c ∈ s.par.rxCapacity, s.rxq.length ≤ c

/-- The bytes of a write event; of any other event none. -/
def written : LinkEvent → List Byte
  | .write bs => bs
  | .read _ => []
  | .drain _ => []
  | .timeout => []

/-- R69: the transmit history is the concatenation of all write events. -/
abbrev HistoryOk (s : State) : Prop := s.txlog = s.events.flatMap written

/-- A host operation in progress always has an exchange of the CommandChannel's in progress (R190). -/
abbrev JobOk (s : State) : Prop := s.job.isSome → s.exch.isSome

/-- The invariant of the machine. -/
structure StateInv (s : State) : Prop where
  pend : PendOk s
  attempts : AttemptsOk s
  body : BodyOk s
  queue : QueueOk s
  history : HistoryOk s
  job : JobOk s

/-- What every step respects: time never decreases (R32), the histories only grow (R35 (4)), the parameters are fixed
(R29). -/
structure Grows (s t : State) : Prop where
  now : s.now ≤ t.now
  txlog : s.txlog <+: t.txlog
  events : s.events <+: t.events
  outlog : s.outlog <+: t.outlog
  par : t.par = s.par

/-- `n` steps, stopping at the first that has no next state. -/
def run : Nat → State → Host.Outcome State Fault Refusal
  | 0, s => .next s
  | n + 1, s => andThen (step s) (run n)

/-- The state with every working register that its phase does not read before writing it (R24) set to one fixed value:
`syncDeadline` outside a hunt, `byteDeadline` outside the LEN and body reads, `rxLen` and `rxBuf` outside a body, both
flags everywhere, and the deadline of a send that has not written its frame yet. -/
def forgetDead (s : State) : State :=
  { s with
    syncDeadline := if s.phase = .syncOnly ∨ s.phase = .recvSync then s.syncDeadline else 0
    byteDeadline := if s.phase = .recvLen ∨ s.phase = .recvBody then s.byteDeadline else none
    rxLen := if s.phase = .recvBody ∨ s.phase = .recvAck then s.rxLen else 0x00#8
    rxBuf := if s.phase = .recvBody ∨ s.phase = .recvAck then s.rxBuf else []
    chkOk := false
    hadStale := false
    pend := if s.phase = .sendStart then s.pend.map fun p => { p with deadline := 0 } else s.pend }

/-- `A[23:16]`, `A[15:8]`, `A[7:0]` as the offset `A` (R62). -/
def addr24 (h m l : Byte) : Addr24 :=
  BitVec.ofNat 24 (h.toNat * 2 ^ 16 + m.toNat * 2 ^ 8 + l.toNat)

end Sys2Proof.Safety
end

