-- ==== Sys2Proof/Certificates/Slice0/Obligations.lean ====
section
/-! DEFINITION. The statements about the model, from the spec's numbered rules. Where a statement rests on a choice that the
spec marks as its own (a decision D<n> or a derived rule), or on a choice of the model's, its docstring says so. A step of an
agent is its move at the front of the schedule, and the schedule, the event history and the list of outcomes are the model's
fields (notes/assumptions/1 and 24). That a unit's arrival and the reads that follow it are one step of `exec` is the model's
choice too (notes/assumptions/11). -/

open Sys2Proof Sys2Proof.Machine Sys2Proof.Safety

/-! ### FrameCodec -/

/-- R110: `checksum(xs)` hands the host the XOR-fold of `0xFF` with every byte, in every state, and changes nothing else of
the state; the fold of the empty sequence is the seed, the order of the bytes does not matter, two equal bytes cancel, and
a sequence followed by its own checksum folds to zero. -/
def Obligations.ChecksumAnswersTheXorFold : Prop :=
  (∀ (xs : List Byte) (s : State), exec (.checksum xs) s =
    .next { s with outlog := s.outlog ++ [.ok (.byte (xs.foldl (fun a x => a ^^^ x) 0xFF#8))] }) ∧
  checksumOf [] = 0xFF#8 ∧
  (∀ xs ys : List Byte, xs.Perm ys → checksumOf xs = checksumOf ys) ∧
  (∀ a : Byte, checksumOf [a, a] = 0xFF#8) ∧
  (∀ xs : List Byte, checksumOf (xs ++ [checksumOf xs]) = 0x00#8)

/-- R112 with R82 and R86 (LEN is decision D1): `encode` of a payload inside its domain hands the host
`SOF, LEN, TYPE, payload, CHECKSUM`, `n + 4` bytes, with LEN the number `n + LEN_BIAS`, in every state, and changes nothing
else. -/
def Obligations.EncodeAnswersTheFrame : Prop :=
  ∀ (t : Byte) (p : List Byte) (s : State), p.length ≤ 255 - s.par.lenBias.toNat →
    ∃ len chk : Byte,
      exec (.encode t p) s =
        .next { s with outlog := s.outlog ++ [.ok (.bytes ([0x01#8, len, t] ++ p ++ [chk]))] } ∧
      len.toNat = p.length + s.par.lenBias.toNat ∧
      chk = (len :: t :: p).foldl (fun a x => a ^^^ x) 0xFF#8

/-- R113 to R116 (decisions D1, D2, D4, D33): `decode` answers in every state, by the tests `Truncated`, `ChecksumMismatch`,
`TooShort` in that order, on the LEN byte and the `LEN + 2 - LEN_BIAS` bytes after it; a body that passes all three gives its type, its payload and the bytes consumed. The
errors carry the bytes read, and nothing else of the state changes. -/
def Obligations.DecodeAnswersByItsTests : Prop :=
  (∀ s : State, exec (.decode []) s = .next { s with outlog := s.outlog ++ [.err .truncated []] }) ∧
  ∀ (len : Byte) (rest : List Byte) (s : State), ∃ r : OpResult,
    exec (.decode (len :: rest)) s = .next { s with outlog := s.outlog ++ [r] } ∧
    let k := len.toNat + 2 - s.par.lenBias.toNat
    let body := rest.take k
    let fold := (len :: body).foldl (fun a x => a ^^^ x) 0xFF#8
    (rest.length < k → r = .err .truncated rest) ∧
    (k ≤ rest.length → fold ≠ 0x00#8 → r = .err .checksumMismatch body) ∧
    (k ≤ rest.length → fold = 0x00#8 → k < 2 → r = .err .tooShort body) ∧
    (k ≤ rest.length → fold = 0x00#8 → 2 ≤ k →
      ∃ t p chk, body = t :: p ++ [chk] ∧ r = .ok (.frame t p (1 + k)))

/-- R117 (derived): for every type byte and every payload that fits, `encode` answers a frame `F` whose byte 0 is `SOF`,
whose other bytes fold to zero, and `decode` of those other bytes answers the type, the payload and `len(P) + 3`. -/
def Obligations.DecodeInvertsEncode : Prop :=
  ∀ (t : Byte) (p : List Byte) (s : State), p.length ≤ maxPayload s.par.lenBias → ∃ f : List Byte,
    exec (.encode t p) s = .next { s with outlog := s.outlog ++ [.ok (.bytes (Config.sof :: f))] } ∧
    checksumOf f = 0x00#8 ∧
    exec (.decode f) s = .next { s with outlog := s.outlog ++ [.ok (.frame t p (p.length + 3))] }

/-- R118 (a) (derived; it narrows the source's property, conflict C3): one byte of an encoded frame at offset 2 or later
(TYPE, payload or CHECKSUM) replaced by any other value makes `decode` answer `ChecksumMismatch` with the body read. -/
def Obligations.OneCorruptByteIsDetected : Prop :=
  ∀ (t : Byte) (p f : List Byte) (i : Nat) (v : Byte) (s : State),
    encodeFrame s.par.lenBias t p = some f → 2 ≤ i → i < f.length → f[i]? ≠ some v →
    exec (.decode ((f.set i v).drop 1)) s =
      .next { s with outlog := s.outlog ++ [.err .checksumMismatch ((f.set i v).drop 2)] }

/-! ### Encoding -/

/-- R81, R84, R85, R95, R97 and R200 to R213: for every well-formed instruction of the table, under either `LEN_BIAS`, the
decoder reads the instruction back from its image, every operand included. -/
def Obligations.DecodingAnImageGivesTheInstruction : Prop :=
  ∀ (b : LenBias) (i : Instr), wellFormed b i = true → decodeImage b (imageOf i) = .ok i

/-- R81, R84, R85 and R97, the other direction: link bytes or payload bytes that decode to an instruction are exactly that
instruction's bytes, so no two images of one kind mean the same instruction, and no byte is dropped. R97 matches a command by
byte 0 alone: that a listed opcode with arguments of another shape is no row of the table is the model's choice
(notes/assumptions/33), and so is the empty payload of a frame whose LEN leaves no room for TYPE and CHECKSUM
(notes/assumptions/17). -/
def Obligations.DecodedBytesAreTheImage : Prop :=
  ∀ (b : LenBias) (bytes : List Byte) (i : Instr),
    (decodeImage b (.link bytes) = .ok i → imageOf i = .link bytes ∧ wellFormed b i = true) ∧
    (decodeImage b (.command bytes) = .ok i → imageOf i = .command bytes)

/-- A few words of the spec's encodings, byte for byte: the sentinels of R84, the frames of vectors V5 and V6, and commands
of R206, R207 and R212. -/
def Obligations.WordsOfTheSpecDecode : Prop :=
  decodeImage .two (.link [0x01#8]) = .ok .sof ∧
  decodeImage .two (.link [0x06#8]) = .ok .ack ∧
  decodeImage .two (.link [0x15#8]) = .ok .nak ∧
  decodeImage .two (.link [0x18#8]) = .ok .can ∧
  decodeImage .two (.link [0x01#8, 0x03#8, 0x00#8, 0x20#8, 0xDC#8]) = .ok (.request 0x03#8 [0x20#8] 0xDC#8) ∧
  decodeImage .two (.link [0x01#8, 0x08#8, 0x01#8, 0x20#8, 0x12#8, 0x34#8, 0x56#8, 0x78#8, 0x05#8, 0xDB#8]) =
    .ok (.response 0x08#8 [0x20#8, 0x12#8, 0x34#8, 0x56#8, 0x78#8, 0x05#8] 0xDB#8) ∧
  decodeImage .two (.command [0x29#8]) = .ok .nvmGetManufacturerId ∧
  decodeImage .two (.command [0x2A#8, 0x00#8, 0x00#8, 0x10#8, 0x00#8, 0x10#8]) =
    .ok (.nvmExtRead 0x000010#24 0x00#8 0x10#8) ∧
  decodeImage .two (.command [0x4B#8, 0x01#8, 0x02#8]) = .ok (.removeNode 0x01#8 0x02#8)

/-! ### Units on the link -/

/-- R89, last line, and R51: in a phase that reads no byte (`Idle`, `SendStart`, `SendBackoff`, `RecvAck`) a unit that
arrives is appended to the receive queue, and nothing else changes. That a unit's arrival is one step is the model's choice
(notes/assumptions/11). -/
def Obligations.UnitsWaitWhenNoPhaseReads : Prop :=
  ∀ (i : Instr) (s : State),
    (i = .sof ∨ i = .ack ∨ i = .nak ∨ i = .can ∨ (∃ l p c, i = .request l p c) ∨ (∃ l p c, i = .response l p c)) →
    (s.phase = .idle ∨ s.phase = .sendStart ∨ s.phase = .sendBackoff ∨ s.phase = .recvAck) →
    (∀ c ∈ s.par.rxCapacity, s.rxq.length + (instrBytes i).length ≤ c) →
    exec i s = .next { s with rxq := s.rxq ++ instrBytes i }

/-- R84, R154, R158, R159 (decision D23): an `ACK` that arrives in a handshake wait on an empty queue ends the send with
success: `Ok` with the attempts and the path of the wait, `pend` cleared, `Idle`, one byte read, nothing written. -/
def Obligations.AckEndsAHandshakeWait : Prop :=
  ∀ (s : State) (n : Nat) (path : SendPath), s.rxq = [] → (∀ c ∈ s.par.rxCapacity, 1 ≤ c) →
    ((s.phase = .sendWait1 ∧ n = 1 ∧ path = .first) ∨ (s.phase = .sendWait2T ∧ n = 2 ∧ path = .afterTimeout) ∨
      (s.phase = .sendWait2N ∧ n = 2 ∧ path = .afterNonAck)) →
    exec .ack s = .next { s with
      phase := .idle
      pend := none
      events := s.events ++ [.read 0x06#8]
      outlog := s.outlog ++ [.ok (.acknowledged n path)]
      exch := s.exch.map fun e => { e with got := some (.ok (.acknowledged n path)) } }

/-- R84, R92, R156, R158, R159 (decisions D12, D13): `SOF`, `NAK` or `CAN` that arrives in a handshake wait on an empty queue is
"present but not ACK". In the first wait one `ACK` is written, the back-off of 1000 ms begins and the byte is gone; in a second
wait the send ends with `NoAcknowledgment` and nothing is written. -/
def Obligations.NonAckRetriesOnceThenFails : Prop :=
  ∀ (i : Instr) (x : Byte) (s : State),
    ((i = .sof ∧ x = 0x01#8) ∨ (i = .nak ∧ x = 0x15#8) ∨ (i = .can ∧ x = 0x18#8)) →
    s.rxq = [] → (∀ c ∈ s.par.rxCapacity, 1 ≤ c) →
    (∀ p : Pending, s.phase = .sendWait1 → s.pend = some p → exec i s = .next { s with
      phase := .sendBackoff
      pend := some { p with deadline := s.now + 1000 }
      txlog := s.txlog ++ [0x06#8]
      events := s.events ++ [.read x, .write [0x06#8]] }) ∧
    (s.phase = .sendWait2T ∨ s.phase = .sendWait2N → exec i s = .next { s with
      phase := .idle
      pend := none
      events := s.events ++ [.read x]
      outlog := s.outlog ++ [.err .noAcknowledgment []]
      exch := s.exch.map fun e => { e with got := some (.err .noAcknowledgment []) } })

/-- R131, R134: `SOF` that arrives in a hunt on an empty queue ends it: a bare `syncToFrameStart` returns `Ok(())`, a
`receiveFrame` goes on to the LEN byte with the deadline that `BODY_BYTE_TIMEOUT_MS` gives. -/
def Obligations.SofEndsTheHunt : Prop :=
  ∀ s : State, s.rxq = [] → (∀ c ∈ s.par.rxCapacity, 1 ≤ c) →
    (s.phase = .syncOnly → exec .sof s = .next { s with
      phase := .idle
      pend := none
      events := s.events ++ [.read 0x01#8]
      outlog := s.outlog ++ [.ok .unit]
      exch := s.exch.map fun e => { e with got := some (.ok .unit) } }) ∧
    (s.phase = .recvSync → exec .sof s = .next { s with
      phase := .recvLen
      byteDeadline := s.par.bodyByteTimeout.map fun ms => s.now + ms
      events := s.events ++ [.read 0x01#8] })

/-- R84, R131: `ACK`, `NAK` and `CAN` that arrive in a hunt on an empty queue are discarded: the byte is read and gone, and
nothing else changes. -/
def Obligations.OtherSentinelsAreDiscardedInAHunt : Prop :=
  ∀ (i : Instr) (x : Byte) (s : State),
    ((i = .ack ∧ x = 0x06#8) ∨ (i = .nak ∧ x = 0x15#8) ∨ (i = .can ∧ x = 0x18#8)) →
    (s.phase = .syncOnly ∨ s.phase = .recvSync) → s.rxq = [] → (∀ c ∈ s.par.rxCapacity, 1 ≤ c) →
    exec i s = .next { s with events := s.events ++ [.read x] }

/-- R88, R89: inside a frame a sentinel value is LEN or data. In `RecvLen` it is the LEN byte (R135), in `RecvBody` a body
byte (R136). -/
def Obligations.SentinelValuesInsideAFrameAreData : Prop :=
  ∀ (i : Instr) (x : Byte) (s : State),
    ((i = .sof ∧ x = 0x01#8) ∨ (i = .ack ∧ x = 0x06#8) ∨ (i = .nak ∧ x = 0x15#8) ∨ (i = .can ∧ x = 0x18#8)) →
    s.rxq = [] → (∀ c ∈ s.par.rxCapacity, 1 ≤ c) →
    (s.phase = .recvLen → exec i s = .next { s with
      phase := .recvBody
      rxLen := x
      rxBuf := []
      byteDeadline := s.par.bodyByteTimeout.map fun ms => s.now + ms
      events := s.events ++ [.read x] }) ∧
    (s.phase = .recvBody → s.rxBuf.length + 1 = s.rxLen.toNat + 2 - s.par.lenBias.toNat →
      exec i s = .next { s with
        phase := .recvAck
        rxBuf := s.rxBuf ++ [x]
        events := s.events ++ [.read x] }) ∧
    (s.phase = .recvBody → s.rxBuf.length + 1 ≠ s.rxLen.toNat + 2 - s.par.lenBias.toNat →
      exec i s = .next { s with
        rxBuf := s.rxBuf ++ [x]
        byteDeadline := s.par.bodyByteTimeout.map fun ms => s.now + ms
        events := s.events ++ [.read x] })

/-- R85, R90, R133 to R136, R139 (5): a well-formed frame of either TYPE, with any LEN that leaves room for TYPE and CHECKSUM
and any checksum byte, that arrives in the hunt of a `receiveFrame` on an empty queue is read whole: LEN and the body
stand in the working registers, all its bytes have been read in order, and `RecvAck` is next. Nothing is written yet. -/
def Obligations.FrameArrivingInAHuntIsReadWhole : Prop :=
  ∀ (i : Instr) (len ty chk : Byte) (p : List Byte) (s : State),
    ((i = .request len p chk ∧ ty = 0x00#8) ∨ (i = .response len p chk ∧ ty = 0x01#8)) →
    p.length + 2 = len.toNat + 2 - s.par.lenBias.toNat →
    s.phase = .recvSync → s.rxq = [] → (∀ c ∈ s.par.rxCapacity, p.length + 4 ≤ c) →
    exec i s = .next { s with
      phase := .recvAck
      byteDeadline := s.par.bodyByteTimeout.map fun ms => s.now + ms
      rxLen := len
      rxBuf := ty :: p ++ [chk]
      events := s.events ++ ((0x01#8 :: len :: ty :: p ++ [chk]).map .read) }

/-- R275 (derived) with R156 and R158: a frame that arrives in a handshake wait on an empty queue is lost. Its first byte is
"present but not ACK": in the first wait the back-off begins, in a second wait the send fails; the rest of the frame stays
in the queue. -/
def Obligations.FrameInAHandshakeWaitIsNotReceived : Prop :=
  ∀ (i : Instr) (len ty chk : Byte) (p : List Byte) (s : State),
    ((i = .request len p chk ∧ ty = 0x00#8) ∨ (i = .response len p chk ∧ ty = 0x01#8)) →
    s.rxq = [] → (∀ c ∈ s.par.rxCapacity, p.length + 4 ≤ c) →
    (s.phase = .sendWait1 → exec i s = .next { s with
      phase := .sendBackoff
      pend := s.pend.map fun q => { q with deadline := s.now + 1000 }
      rxq := len :: ty :: p ++ [chk]
      txlog := s.txlog ++ [0x06#8]
      events := s.events ++ [.read 0x01#8, .write [0x06#8]] }) ∧
    (s.phase = .sendWait2T ∨ s.phase = .sendWait2N → exec i s = .next { s with
      phase := .idle
      pend := none
      rxq := len :: ty :: p ++ [chk]
      events := s.events ++ [.read 0x01#8]
      outlog := s.outlog ++ [.err .noAcknowledgment []]
      exch := s.exch.map fun e => { e with got := some (.err .noAcknowledgment []) } })

/-- R51, R52, R22, R65: a peer step is enabled in every state whose capacity the new length keeps: the bytes are appended in order
behind what is queued, and nothing else changes. A step that would exceed a finite `RX_CAPACITY` is outside the spec: it stops
by the name `rxOverflow`, and so does every unit's arrival (the model's choice, notes/assumptions/9). -/
def Obligations.PeerStepAppendsWithinCapacity : Prop :=
  (∀ (bytes : List Byte) (rest : List Move) (s : State), s.sched = .peer bytes :: rest →
    (∀ c ∈ s.par.rxCapacity, s.rxq.length + bytes.length ≤ c) →
    step s = .next { s with sched := rest, rxq := s.rxq ++ bytes }) ∧
  ∀ (i : Instr) (bytes : List Byte) (rest : List Move) (c : Nat) (s : State),
    (i = .sof ∨ i = .ack ∨ i = .nak ∨ i = .can ∨ (∃ l p k, i = .request l p k) ∨ (∃ l p k, i = .response l p k)) →
    s.par.rxCapacity = some c →
    (c < s.rxq.length + (instrBytes i).length → exec i s = .fault .rxOverflow) ∧
    (s.sched = .peer bytes :: rest → c < s.rxq.length + bytes.length → step s = .fault .rxOverflow)

/-! ### Issue and refusal -/

/-- R130, R150 (decisions D8, D24): issued when the block may be issued an operation, `syncToFrameStart(t)` and
`receiveFrame(t)` set one deadline for the whole hunt and enter it; `sendFrame(F)` takes any byte sequence, keeps it with no
attempt made, and enters `SendStart`. Nothing else changes, nothing is written. The deadline of the new exchange is
unspecified: a free value (notes/assumptions/6). -/
def Obligations.TransportOperationsAreIssued : Prop :=
  ∀ (t : Nat) (f : List Byte) (s : State), s.phase = .idle → s.exch = none → s.job = none →
    exec (.syncToFrameStart t) s = .next { s with phase := .syncOnly, syncDeadline := s.now + t } ∧
    exec (.receiveFrame t) s = .next { s with phase := .recvSync, syncDeadline := s.now + t } ∧
    ∃ d : Nat, exec (.sendFrame f) s = .next { s with
      phase := .sendStart
      pend := some { frame := f, attempts := 0, deadline := d }
      fresh := s.fresh + 1 }

/-- R151, R54, R153, R157 (decisions D11, D26): `drain()` runs in the two places where `sendFrame` has it, as the step of
Transport that begins with it: the queue is emptied in one step and everything in it is lost; in `SendStart` the flag says
whether there was anything, which one `ACK` answers, and the frame follows; at the end of `SendBackoff` there is neither flag
nor `ACK`. Anywhere else nothing leaves the queue: what was asked is refused (the model's choice, notes/assumptions/12). -/
def Obligations.DrainEmptiesTheQueue : Prop :=
  ∀ (s : State) (p : Pending),
    (s.phase = .sendStart → s.pend = some p → exec .drain s = .next { s with
      phase := .sendWait1
      pend := some { p with attempts := 1, deadline := s.now + 500 }
      hadStale := decide (s.rxq ≠ [])
      rxq := []
      txlog := s.txlog ++ (if s.rxq = [] then [] else [0x06#8]) ++ p.frame
      events := s.events ++ [.drain s.rxq] ++ (if s.rxq = [] then [] else [.write [0x06#8]]) ++ [.write p.frame] }) ∧
    (s.phase = .sendBackoff → s.pend = some p → p.deadline ≤ s.now → exec .drain s = .next { s with
      phase := .sendWait2N
      pend := some { p with attempts := 2, deadline := s.now + 500 }
      rxq := []
      txlog := s.txlog ++ p.frame
      events := s.events ++ [.drain s.rxq, .write p.frame] }) ∧
    (s.phase ≠ .sendStart → (s.phase = .sendBackoff → ∀ q ∈ s.pend, s.now < q.deadline) →
      exec .drain s = .next { s with outlog := s.outlog ++ [.err .refused []] })

/-- R21, R243, R270 (decision D18): an operation of Transport issued outside `Idle` is refused: the host gets `Err(Refused)`
and nothing else changes. The source only forbids such an issue: the refusal is the model's own, as R243 asks a model to mark it
(notes/assumptions/41). The same holds for a command, and while a host exchange is unresolved (notes/assumptions/13). A `drain`
is Transport's own in the two phases that have one (notes/assumptions/12). -/
def Obligations.BusyBlockRefuses : Prop :=
  ∀ (i : Instr) (s : State),
    ((∃ t, i = .syncToFrameStart t) ∨ (∃ t, i = .receiveFrame t) ∨
      (i = .drain ∧ s.phase ≠ .sendStart ∧ s.phase ≠ .sendBackoff) ∨ (∃ f, i = .sendFrame f) ∨
      i = .getInitData ∨ i = .getCapabilities ∨ i = .softReset ∨ (∃ a, i = .getProtocolVersion a) ∨
      i = .getLibraryVersion ∨ i = .getHomeNodeId ∨ i = .nvmGetManufacturerId ∨ (∃ a x y, i = .nvmExtRead a x y) ∨
      (∃ a r, i = .nvmExtWriteRange a r) ∨ (∃ a v, i = .nvmExtWriteByte a v) ∨ i = .factoryReset ∨
      (∃ m o, i = .addNode m o) ∨ (∃ m o, i = .removeNode m o) ∨ (∃ c a, i = .fwUpdateNvm c a)) →
    (s.phase ≠ .idle ∨ s.exch ≠ none ∨ s.job ≠ none) →
    exec i s = .next { s with outlog := s.outlog ++ [.err .refused []] }

/-! ### Commands -/

/-- R200 to R202, R204 to R206 and R210, with R181 (LEN_BIAS 2 is decision D1): each command without arguments sends, byte
for byte, the request frame its rule shows, and the channel waits for the handshake, with or without a reply to follow.
Under `LEN_BIAS` 1 the frame has LEN 2 and the checksum that goes with it (R82, R86). Which of them expect a reply, and the
default timeout, is the model's reading of the rows (notes/assumptions/18, and 19 for 08 and 42): a caller of `call` may ask
otherwise. -/
def Obligations.CommandsWithoutArgumentsSendTheirFrame : Prop :=
  ∀ (i : Instr) (op chk : Byte) (reply : Bool) (s : State),
    ((i = .getInitData ∧ op = 0x02#8 ∧ chk = 0xFE#8 ∧ reply = true) ∨
      (i = .getCapabilities ∧ op = 0x07#8 ∧ chk = 0xFB#8 ∧ reply = true) ∨
      (i = .softReset ∧ op = 0x08#8 ∧ chk = 0xF4#8 ∧ reply = false) ∨
      (i = .getLibraryVersion ∧ op = 0x15#8 ∧ chk = 0xE9#8 ∧ reply = true) ∨
      (i = .getHomeNodeId ∧ op = 0x20#8 ∧ chk = 0xDC#8 ∧ reply = true) ∨
      (i = .nvmGetManufacturerId ∧ op = 0x29#8 ∧ chk = 0xD5#8 ∧ reply = true) ∨
      (i = .factoryReset ∧ op = 0x42#8 ∧ chk = 0xBE#8 ∧ reply = false)) →
    s.phase = .idle → s.exch = none → s.job = none → ∃ (d : Nat) (f : List Byte),
    (s.par.lenBias = .two → f = [0x01#8, 0x03#8, 0x00#8, op, chk]) ∧
    (s.par.lenBias = .one → f = [0x01#8, 0x02#8, 0x00#8, op, chk ^^^ 0x01#8]) ∧
    exec i s = .next { s with
      phase := .sendStart
      pend := some { frame := f, attempts := 0, deadline := d }
      exch := some { wait := .handshake reply s.par.replyTimeout, got := none }
      fresh := s.fresh + 1 }

/-- R203, R207 to R209 and R211 to R213, with R62 and R181: each command with arguments sends the request frame of its
payload, opcode first, NVM offsets as three big-endian bytes, under either `LEN_BIAS`. Whether a reply is expected to the
opcodes 0x09 and 0x78 is not in the source (a free value), and a membership stop expects none (notes/assumptions/18). -/
def Obligations.CommandsWithArgumentsSendTheirFrame : Prop :=
  ∀ (i : Instr) (payload : List Byte) (s : State),
    ((∃ a, i = .getProtocolVersion a ∧ payload = 0x09#8 :: a) ∨
      (∃ (h m l : Byte) (x y : Byte), i = .nvmExtRead (addr24 h m l) x y ∧ payload = [0x2A#8, h, m, l, x, y]) ∨
      (∃ (h m l : Byte) (r : List Byte), i = .nvmExtWriteRange (addr24 h m l) r ∧ payload = [0x2B#8, h, m, l] ++ r) ∨
      (∃ (h m l : Byte) (v : Byte), i = .nvmExtWriteByte (addr24 h m l) v ∧ payload = [0x2D#8, h, m, l, v]) ∨
      (∃ mode opts, i = .addNode mode opts ∧ payload = [0x4A#8, mode, opts]) ∨
      (∃ mode opts, i = .removeNode mode opts ∧ payload = [0x4B#8, mode, opts]) ∨
      (∃ c a, i = .fwUpdateNvm c a ∧ payload = 0x78#8 :: c :: a)) →
    payload.length ≤ 255 - s.par.lenBias.toNat →
    s.phase = .idle → s.exch = none → s.job = none →
    ∃ (d : Nat) (len chk : Byte) (reply : Bool) (t : Nat),
      len.toNat = payload.length + s.par.lenBias.toNat ∧
      chk = (len :: 0x00#8 :: payload).foldl (fun a x => a ^^^ x) 0xFF#8 ∧
      ((∃ a x y, i = .nvmExtRead a x y) ∨ (∃ a r, i = .nvmExtWriteRange a r) ∨ (∃ a v, i = .nvmExtWriteByte a v) →
        reply = true ∧ t = s.par.replyTimeout) ∧
      (∀ m o, i = .addNode m o ∨ i = .removeNode m o →
        reply = (m != Config.modeStop (if i = .addNode m o then 0x4A#8 else 0x4B#8)) ∧ t = s.par.membershipTimeout) ∧
      exec i s = .next { s with
        phase := .sendStart
        pend := some { frame := [0x01#8, len, 0x00#8] ++ payload ++ [chk], attempts := 0, deadline := d }
        exch := some { wait := .handshake reply t, got := none }
        fresh := s.fresh + 1 }

/-- R111, R243, R181 (decisions D3, D18): `encode` of a payload longer than `MAX_PAYLOAD` is refused: no bytes, no effect but the
outcome `Err(Refused)`; so is a command whose payload does not fit a frame: nothing is sent and no exchange begins. The refusal
of `encode` is the model's own, as R111 asks a model to mark it (notes/assumptions/39), and that `call` then answers
`Err(Refused)` is the model's reading (notes/assumptions/20). -/
def Obligations.LongPayloadIsRefused : Prop :=
  ∀ (i : Instr) (bytes : List Byte) (s : State),
    ((∃ ty, i = .encode ty bytes) ∨
      (∃ a, i = .getProtocolVersion a ∧ bytes = 0x09#8 :: a) ∨
      (∃ (h m l : Byte) (r : List Byte), i = .nvmExtWriteRange (addr24 h m l) r ∧ bytes = [0x2B#8, h, m, l] ++ r) ∨
      (∃ c a, i = .fwUpdateNvm c a ∧ bytes = 0x78#8 :: c :: a)) →
    255 - s.par.lenBias.toNat < bytes.length →
    exec i s = .next { s with outlog := s.outlog ++ [.err .refused []] }

/-! ### The steps of Transport -/

/-- R28, R137, R133, R139 (1) (decision D10): the step in `RecvAck` writes `chkOk`, exactly one `ACK` whatever the checksum,
and returns the body with the flag; the block is `Idle`. -/
def Obligations.ReceivedFrameIsAcknowledgedOnce : Prop :=
  ∀ (rest : List Move) (s : State), s.sched = .transport :: rest → s.phase = .recvAck →
    ∃ ok : Bool, (ok = true ↔ (s.rxLen :: s.rxBuf).foldl (fun a x => a ^^^ x) 0xFF#8 = 0x00#8) ∧
      step s = .next { s with
        sched := rest
        phase := .idle
        pend := none
        chkOk := ok
        txlog := s.txlog ++ [0x06#8]
        events := s.events ++ [.write [0x06#8]]
        outlog := s.outlog ++ [.ok (.received s.rxBuf ok)]
        exch := s.exch.map fun e => { e with got := some (.ok (.received s.rxBuf ok)) } }

/-- R28, R153 (decision D11): the step in `SendStart` drains the queue, writes one `ACK` exactly when it was not empty, then
writes the frame, counts one attempt and arms the 500 ms wait; `hadStale` says whether the drain found bytes. -/
def Obligations.SendStartDrainsAndWritesTheFrame : Prop :=
  ∀ (rest : List Move) (p : Pending) (s : State),
    s.sched = .transport :: rest → s.phase = .sendStart → s.pend = some p →
    (s.rxq = [] → step s = .next { s with
      sched := rest
      phase := .sendWait1
      pend := some { p with attempts := 1, deadline := s.now + 500 }
      hadStale := false
      txlog := s.txlog ++ p.frame
      events := s.events ++ [.drain [], .write p.frame] }) ∧
    (s.rxq ≠ [] → step s = .next { s with
      sched := rest
      phase := .sendWait1
      pend := some { p with attempts := 1, deadline := s.now + 500 }
      hadStale := true
      rxq := []
      txlog := s.txlog ++ [0x06#8] ++ p.frame
      events := s.events ++ [.drain s.rxq, .write [0x06#8], .write p.frame] })

/-- R155, with R53 for when `RxGet` gives `None`: the first handshake wait times out: one `ACK`, the frame again, two attempts,
and a wait of 1500 ms; no sleep and no drain. `RxGet` gives `None` on an empty queue at or after the deadline (decision D7). -/
def Obligations.FirstWaitTimeoutResends : Prop :=
  ∀ (rest : List Move) (p : Pending) (s : State),
    s.sched = .transport :: rest → s.phase = .sendWait1 → s.pend = some p → s.rxq = [] → p.deadline ≤ s.now →
    step s = .next { s with
      sched := rest
      phase := .sendWait2T
      pend := some { p with attempts := 2, deadline := s.now + 1500 }
      txlog := s.txlog ++ [0x06#8] ++ p.frame
      events := s.events ++ [.timeout, .write [0x06#8], .write p.frame] }

/-- R56, R157 (decision D15): in `SendBackoff` Transport takes no step before the deadline; at it the queue is drained
without an `ACK`, the frame is written again, and a wait of 500 ms begins. -/
def Obligations.BackoffSleepsThenDrainsAndResends : Prop :=
  ∀ (rest : List Move) (p : Pending) (s : State),
    s.sched = .transport :: rest → s.phase = .sendBackoff → s.pend = some p →
    (s.now < p.deadline → step s = .next { s with sched := rest }) ∧
    (p.deadline ≤ s.now → step s = .next { s with
      sched := rest
      phase := .sendWait2N
      pend := some { p with attempts := 2, deadline := s.now + 500 }
      rxq := []
      txlog := s.txlog ++ p.frame
      events := s.events ++ [.drain s.rxq, .write p.frame] })

/-- R158, R159, R232, R234, R235: at its deadline on an empty queue a second handshake wait ends with `NoAcknowledgment`, a
hunt with `FrameSyncTimeout`, a LEN or body read with `FrameBodyTimeout`; the block is `Idle` and nothing is transmitted. R136,
R140: in `RecvBody` the bytes in `rxBuf` are dropped, which the model reads as an empty `rxBuf` (notes/assumptions/34). -/
def Obligations.DeadlinesEndTheOperation : Prop :=
  ∀ (rest : List Move) (k : ErrKind) (s : State), s.sched = .transport :: rest → s.rxq = [] →
    (((s.phase = .sendWait2T ∨ s.phase = .sendWait2N) ∧ k = .noAcknowledgment ∧ ∃ p ∈ s.pend, p.deadline ≤ s.now) ∨
      ((s.phase = .syncOnly ∨ s.phase = .recvSync) ∧ k = .frameSyncTimeout ∧ s.syncDeadline ≤ s.now) ∨
      ((s.phase = .recvLen ∨ s.phase = .recvBody) ∧ k = .frameBodyTimeout ∧ ∃ d ∈ s.byteDeadline, d ≤ s.now)) →
    step s = .next { s with
      sched := rest
      phase := .idle
      pend := none
      rxBuf := if s.phase = .recvBody then [] else s.rxBuf
      events := s.events ++ [.timeout]
      outlog := s.outlog ++ [.err k []]
      exch := s.exch.map fun e => { e with got := some (.err k []) } }

/-- R134 to R136, R154, R156, R158, R159 and R89, for every byte value: what the byte at the head of the queue does in each
phase that reads, whatever the deadline (R53, R241 (1)); exactly one byte leaves the queue. -/
def Obligations.QueuedByteDecidesByPhase : Prop :=
  ∀ (rest : List Move) (b : Byte) (q : List Byte) (s : State), s.sched = .transport :: rest → s.rxq = b :: q →
    let base := { s with sched := rest, rxq := q, events := s.events ++ [.read b] }
    let dl := s.par.bodyByteTimeout.map fun ms => s.now + ms
    let k := s.rxLen.toNat + 2 - s.par.lenBias.toNat
    let ended := fun r : OpResult => { base with
      phase := .idle, pend := none, outlog := s.outlog ++ [r], exch := s.exch.map fun e => { e with got := some r } }
    (s.phase = .syncOnly → step s = .next (if b = 0x01#8 then ended (.ok .unit) else base)) ∧
    (s.phase = .recvSync → step s = .next (if b = 0x01#8 then { base with phase := .recvLen, byteDeadline := dl } else base)) ∧
    (s.phase = .recvLen → step s = .next (
      if b.toNat + 2 = s.par.lenBias.toNat then { base with phase := .recvAck, rxLen := b, rxBuf := [] }
      else { base with phase := .recvBody, rxLen := b, rxBuf := [], byteDeadline := dl })) ∧
    (s.phase = .recvBody → step s = .next (
      if s.rxBuf.length + 1 = k then { base with phase := .recvAck, rxBuf := s.rxBuf ++ [b] }
      else { base with rxBuf := s.rxBuf ++ [b], byteDeadline := dl })) ∧
    (s.phase = .sendWait1 → step s = .next (
      if b = 0x06#8 then ended (.ok (.acknowledged 1 .first))
      else { base with
        phase := .sendBackoff
        pend := s.pend.map fun p => { p with deadline := s.now + 1000 }
        txlog := s.txlog ++ [0x06#8]
        events := s.events ++ [.read b, .write [0x06#8]] })) ∧
    (s.phase = .sendWait2T → step s = .next (
      ended (if b = 0x06#8 then .ok (.acknowledged 2 .afterTimeout) else .err .noAcknowledgment []))) ∧
    (s.phase = .sendWait2N → step s = .next (
      ended (if b = 0x06#8 then .ok (.acknowledged 2 .afterNonAck) else .err .noAcknowledgment [])))

/-- A unit's arrival is a peer step and then reads of Transport's (R51, R64; the model's choice of one step for them is
notes/assumptions/11): for every unit, every queue and every phase, `exec` answers what the append and some number of
Transport moves, at most one for each byte of the unit, answer. -/
def Obligations.UnitArrivalIsAPeerStepThenReads : Prop :=
  ∀ (i : Instr) (s : State),
    (i = .sof ∨ i = .ack ∨ i = .nak ∨ i = .can ∨ (∃ l p c, i = .request l p c) ∨ (∃ l p c, i = .response l p c)) →
    (∀ c ∈ s.par.rxCapacity, s.rxq.length + (instrBytes i).length ≤ c) →
    ∃ (n : Nat) (t : State), n ≤ (instrBytes i).length ∧ exec i s = .next t ∧
      (t.phase.reads = true → t.rxq = [] ∨ n = (instrBytes i).length) ∧
      run n { s with
        rxq := s.rxq ++ instrBytes i, sched := List.replicate n .transport ++ s.sched } = .next t

/-- R246 (1), R271 (derived): with no deadline for body bytes, a receive that waits for LEN or for a body byte on an empty queue
never ends by itself: a move of Transport's, of Time's or of the host's, or the default step of an empty schedule (the model's
choice, notes/assumptions/2), leaves it where it is, with nothing written and no outcome. -/
def Obligations.TruncatedFrameHangsWithoutADeadline : Prop :=
  ∀ s : State, (s.phase = .recvLen ∨ s.phase = .recvBody) → s.byteDeadline = none → s.rxq = [] →
    (∀ (m : Move) (rest : List Move), s.sched = m :: rest →
      (m = .transport ∨ m = .host ∨ ∃ ms, m = .time ms) →
      ∃ now : Nat, s.now ≤ now ∧ step s = .next { s with sched := rest, now := now }) ∧
    (s.sched = [] → ∃ now : Nat, s.now ≤ now ∧ step s = .next { s with now := now, fresh := s.fresh + 1 })

/-! ### Peer and Time -/

/-- R53, R32 (decision D7; that time is otherwise free is notes/assumptions/14): time cannot pass the deadline of an `RxGet` on an
empty queue: an advance up to the deadline happens whole, a longer one stops at the deadline and the rest of it stays to come,
and at the deadline the `RxGet` completes first, as in a move of Transport's. Where no such wait bounds it (a phase that does
not read, a queued byte, a wait without a deadline) the whole advance happens. Nothing else changes. -/
def Obligations.TimeStopsAtAWaitsDeadline : Prop :=
  ∀ (ms : Nat) (rest : List Move) (s : State), s.sched = .time ms :: rest →
    (∀ d : Nat, s.rxq = [] →
      (((s.phase = .syncOnly ∨ s.phase = .recvSync) ∧ s.syncDeadline = d) ∨
        ((s.phase = .sendWait1 ∨ s.phase = .sendWait2T ∨ s.phase = .sendWait2N) ∧ s.pend.map (·.deadline) = some d) ∨
        ((s.phase = .recvLen ∨ s.phase = .recvBody) ∧ s.byteDeadline = some d)) →
      (s.now < d → s.now + ms ≤ d → step s = .next { s with now := s.now + ms, sched := rest }) ∧
      (s.now < d → d < s.now + ms → step s = .next { s with now := d, sched := .time (s.now + ms - d) :: rest }) ∧
      (d ≤ s.now → step s = step { s with sched := .transport :: .time ms :: rest })) ∧
    ((s.phase = .idle ∨ s.phase = .sendStart ∨ s.phase = .sendBackoff ∨ s.phase = .recvAck ∨ s.rxq ≠ [] ∨
        ((s.phase = .recvLen ∨ s.phase = .recvBody) ∧ s.byteDeadline = none) ∨
        ((s.phase = .sendWait1 ∨ s.phase = .sendWait2T ∨ s.phase = .sendWait2N) ∧ s.pend = none)) →
      step s = .next { s with now := s.now + ms, sched := rest })

/-! ### Fetch and step -/

/-- When the next move of the schedule presents an image that decodes to the instruction `i`, `step` is `exec i` on the
state with that move taken off. The schedule is the model's (notes/assumptions/1). -/
def Obligations.StepRunsTheDecodedInstruction : Prop :=
  ∀ (im : Image) (rest : List Move) (i : Instr) (s : State), s.sched = .fetch im :: rest →
    decodeImage s.par.lenBias im = .ok i → step s = exec i { s with sched := rest }

/-- R90, R92, R93: link bytes that are no unit of the table (a reserved TYPE, garbage) stop nothing: in `Idle` they are queued
like any others. R215: payload bytes that are no listed command are carried in a REQUEST frame; so are those of a listed
opcode with arguments of another shape than its rule's (the model's choice, notes/assumptions/33). -/
def Obligations.BytesOutsideTheTableAreCarried : Prop :=
  ∀ (bytes : List Byte) (e : DecodeError) (rest : List Move) (s : State), s.phase = .idle →
    (s.sched = .fetch (.link bytes) :: rest → decodeImage s.par.lenBias (.link bytes) = .error e →
      (∀ c ∈ s.par.rxCapacity, s.rxq.length + bytes.length ≤ c) → step s = .next { s with sched := rest, rxq := s.rxq ++ bytes }) ∧
    (s.sched = .fetch (.command bytes) :: rest → decodeImage s.par.lenBias (.command bytes) = .error e →
      bytes.length ≤ 255 - s.par.lenBias.toNat → s.exch = none → s.job = none →
      ∃ (d : Nat) (reply : Bool) (f : List Byte), encodeFrame s.par.lenBias 0x00#8 bytes = some f ∧
        step s = .next { s with
          sched := rest
          phase := .sendStart
          pend := some { frame := f, attempts := 0, deadline := d }
          exch := some { wait := .handshake reply s.par.replyTimeout, got := none }
          fresh := s.fresh + 1 })

/-! ### The host layers -/

/-- R181: after the handshake of a `call` the host issues `receiveFrame` with the reply timeout when a reply is expected, and
resolves the call with `Ok(None)` when none is; when the send failed it returns that error and attempts no receive. (What a
resolved call of a host operation leads to is `HostOperationsRunByTheirActs`.) -/
def Obligations.CallGoesOnAfterTheHandshake : Prop :=
  ∀ (rest : List Move) (n t : Nat) (path : SendPath) (b : Bool) (k : ErrKind) (s : State), s.sched = .host :: rest →
    s.phase = .idle →
    (s.exch = some ⟨.handshake true t, some (.ok (.acknowledged n path))⟩ → step s = .next { s with
      sched := rest, phase := .recvSync, syncDeadline := s.now + t, exch := some ⟨.reply, none⟩ }) ∧
    (s.job = none → s.exch = some ⟨.handshake false t, some (.ok (.acknowledged n path))⟩ → step s = .next { s with
      sched := rest, exch := none, outlog := s.outlog ++ [.ok (.reply none)] }) ∧
    (s.job = none → s.exch = some ⟨.handshake b t, some (.err k [])⟩ → step s = .next { s with
      sched := rest, exch := none, outlog := s.outlog ++ [.err k []] })

/-- R181, R182, R116 (decision D34): the reply of a `call`: its payload, TYPE and CHECKSUM stripped; on a bad checksum
`ChecksumMismatch` and no bytes; on a good one with fewer than two body bytes `TooShort`; an error is passed up. -/
def Obligations.CallResolvesItsReply : Prop :=
  ∀ (rest : List Move) (t c : Byte) (p body : List Byte) (k : ErrKind) (s : State), s.sched = .host :: rest →
    s.phase = .idle → s.job = none →
    let resolved := fun r : OpResult => { s with sched := rest, exch := none, outlog := s.outlog ++ [r] }
    (s.exch = some ⟨.reply, some (.ok (.received (t :: p ++ [c]) true))⟩ →
      step s = .next (resolved (.ok (.reply (some p))))) ∧
    (s.exch = some ⟨.reply, some (.ok (.received body false))⟩ →
      step s = .next (resolved (.err .checksumMismatch []))) ∧
    (s.exch = some ⟨.reply, some (.ok (.received body true))⟩ → body.length < 2 →
      step s = .next (resolved (.err .tooShort []))) ∧
    (s.exch = some ⟨.reply, some (.err k [])⟩ → step s = .next (resolved (.err k [])))

/-- R183: `awaitCallback(t)` enters the hunt of a `receiveFrame(t)` and sends nothing first, and hands its caller the
outcome of that `receiveFrame` as it is. That this is the body with its flag, nothing stripped, is R183's own inference and the
model's reading (notes/assumptions/30). -/
def Obligations.AwaitCallbackIsReceiveFrame : Prop :=
  ∀ (rest : List Move) (t : Nat) (r : OpResult) (s : State), s.phase = .idle → s.job = none →
    (s.sched = .start (.awaitCallback t) :: rest → s.exch = none → step s = .next { s with
      sched := rest, phase := .recvSync, syncDeadline := s.now + t, exch := some ⟨.callback, none⟩ }) ∧
    (s.sched = .host :: rest → s.exch = some ⟨.callback, some r⟩ → step s = .next { s with
      sched := rest, exch := none, outlog := s.outlog ++ [r] })

/-- R190, R181, R185, R244 (the list of moves is notes/assumptions/1): how the operations of the layers run, in steps. A move that
starts one over a free block performs its first act (`jobBegin`); over a busy one it is refused, which is the model's own
(notes/assumptions/13 and 41). A move of the host's over a resolved call of an operation performs its next act (`jobNext`). An act
that is a `call` sends its request frame, or ends the operation with what it makes of `Refused` when the payload fits no frame
(notes/assumptions/20); one that is an `awaitCallback` enters the hunt; one that ends the operation hands its outcome to the
host. The same holds of a `call` of the host's own. -/
def Obligations.HostOperationsRunByTheirActs : Prop :=
  (∀ (rest : List Move) (h : HostOp) (s : State), s.sched = .start h :: rest →
    (s.phase ≠ .idle ∨ s.exch ≠ none ∨ s.job ≠ none) →
    step s = .next { s with sched := rest, outlog := s.outlog ++ [.err .refused []] }) ∧
  (∀ (rest : List Move) (p f : List Byte) (e : Bool) (t : Option Nat) (s : State), s.sched = .start (.call p e t) :: rest →
    s.phase = .idle → s.exch = none → s.job = none → encodeFrame s.par.lenBias 0x00#8 p = some f → ∃ d : Nat,
    step s = .next { s with
      sched := rest
      phase := .sendStart
      pend := some { frame := f, attempts := 0, deadline := d }
      exch := some ⟨.handshake e (t.getD s.par.replyTimeout), none⟩
      fresh := s.fresh + 1 }) ∧
  ∀ (rest : List Move) (j : Job) (a : HostAct) (s : State), s.phase = .idle →
    ((∃ h, s.sched = .start h :: rest ∧ s.exch = none ∧ s.job = none ∧ jobBegin s.par h = some (j, a)) ∨
      (∃ w r r' j', s.sched = .host :: rest ∧ s.exch = some ⟨w, some r⟩ ∧ channelNext w r = .resolved r' ∧
        s.job = some j' ∧ jobNext s.par j' r' = (j, a))) →
    (∀ p e t f, a = .call p e t → encodeFrame s.par.lenBias 0x00#8 p = some f → ∃ d : Nat, step s = .next { s with
      sched := rest
      phase := .sendStart
      pend := some { frame := f, attempts := 0, deadline := d }
      exch := some ⟨.handshake e t, none⟩
      job := some j
      fresh := s.fresh + 1 }) ∧
    (∀ p e t, a = .call p e t → encodeFrame s.par.lenBias 0x00#8 p = none → step s = .next { s with
      sched := rest, exch := none, job := none, outlog := s.outlog ++ [callRefused s.par j] }) ∧
    (∀ t, a = .await t → step s = .next { s with
      sched := rest, phase := .recvSync, syncDeadline := s.now + t, exch := some ⟨.callback, none⟩, job := some j }) ∧
    (∀ r, a = .done r → step s = .next { s with sched := rest, exch := none, job := none, outlog := s.outlog ++ [r] })

/-- R193, R209: `writeByte` is one request, opcode `2D`, three address bytes and the value, and one response; it "fails when the
response's status byte is zero" and succeeds otherwise. That the status is the byte after the echoed opcode is the model's
reading (notes/assumptions/21), and that the echoed opcode is not checked is the model's choice (notes/assumptions/37). -/
def Obligations.WriteByteFailsOnAZeroStatus : Prop :=
  (∀ (par : Params) (addr : Addr24) (v : Byte), jobBegin par (.writeByte addr v) =
    some (.writeByte, .call ([0x2D#8] ++ addrBytes addr ++ [v]) true par.replyTimeout)) ∧
  ∀ (rest : List Move) (op st t c : Byte) (s : State), s.sched = .host :: rest →
    s.phase = .idle → s.job = some .writeByte →
    s.exch = some ⟨.reply, some (.ok (.received [t, op, st, c] true))⟩ →
    step s = .next { s with
      sched := rest, exch := none, job := none
      outlog := s.outlog ++ [if st = 0x00#8 then .err .writeFailed [] else .ok .unit] }

/-- R194, R195, R14: with chunks of 16 bytes, `fill(value, 16 * n)` begins with a write of 16 bytes of `value` at offset 0, the
length field an 8- or 16-bit count of 16; each acknowledged chunk is followed by the chunk at the next multiple of 16, and after
chunk `n` it is done: `n` writes. A zero status, or an error, at any chunk ends it and reports how far it got. The place of the
status is the model's reading and the width of the length field is open (notes/assumptions/21); that a response with a non-zero
status acknowledges its chunk whatever opcode it echoes is notes/assumptions/37, and what a chunk that `encode` refuses ends
with is notes/assumptions/20. -/
def Obligations.FillWritesSixteenByteChunksInOrder : Prop :=
  ∃ field : List Byte, (field = [0x10#8] ∨ field = [0x00#8, 0x10#8] ∨ field = [0x10#8, 0x00#8]) ∧
  ∀ (par : Params) (v op st : Byte) (n i : Nat) (k : ErrKind) (b : List Byte), par.chunkMax = 16 → i < n → st ≠ 0x00#8 →
    let chunk := fun a : Nat => HostAct.call
      ([0x2B#8] ++ addrBytes (nvmAddr a) ++ field ++ List.replicate 16 v) true par.replyTimeout
    jobBegin par (.fill v (16 * n)) = some (.fill v (16 * n) 16 0, chunk 0) ∧
    (i + 1 < n → jobNext par (.fill v (16 * n) 16 (16 * i)) (.ok (.reply (some [op, st]))) =
      (.fill v (16 * n) 16 (16 * (i + 1)), chunk (16 * (i + 1)))) ∧
    (i + 1 = n → (jobNext par (.fill v (16 * n) 16 (16 * i)) (.ok (.reply (some [op, st])))).2 = .done (.ok .unit)) ∧
    (jobNext par (.fill v (16 * n) 16 (16 * i)) (.ok (.reply (some [op, 0x00#8])))).2 =
      .done (.stopped .writeFailed (16 * i)) ∧
    (jobNext par (.fill v (16 * n) 16 (16 * i)) (.err k b)).2 = .done (.stopped k (16 * i)) ∧
    callRefused par (.fill v (16 * n) 16 (16 * i)) = .stopped .refused (16 * i)

/-- R192: `readRange` asks for at most 16 bytes at a time, begins at the given address and goes on behind what it has asked for
until nothing is left, the data of each response behind those before; a response whose echo does not match its request ends it
with `TransferError`, an error is passed up. The two bytes after the address, the data bytes and the result of the echo check
are free values (notes/assumptions/21); that it composes the calls itself, and takes up to 16 data bytes of a response, is
notes/assumptions/36, and that length 0 asks for nothing 38. -/
def Obligations.ReadRangeReadsInChunks : Prop :=
  ∀ (par : Params) (start : Addr24) (len : BitVec 16) (addr chunk left : Nat) (req acc p b : List Byte) (k : ErrKind),
    par.chunkMax = 16 →
    let ask := fun (a : Addr24) (at' count : Nat) =>
      [0x2A#8] ++ addrBytes a ++ [(Config.nvmReadFields at' count).1, (Config.nvmReadFields at' count).2]
    (len = 0#16 → (jobBegin par (.readRange start len)).map Prod.snd = some (.done (.ok (.data [])))) ∧
    (len ≠ 0#16 → jobBegin par (.readRange start len) =
      some (.read start.toNat (min 16 len.toNat) (len.toNat - min 16 len.toNat)
          (ask start start.toNat (min 16 len.toNat)) [],
        .call (ask start start.toNat (min 16 len.toNat)) true par.replyTimeout)) ∧
    (Config.nvmEchoOk req p = false →
      (jobNext par (.read addr chunk left req acc) (.ok (.reply (some p)))).2 = .done (.err .transferError [])) ∧
    (Config.nvmEchoOk req p = true → left = 0 →
      (jobNext par (.read addr chunk left req acc) (.ok (.reply (some p)))).2 =
        .done (.ok (.data (acc ++ (Config.nvmReadData p).take 16)))) ∧
    (Config.nvmEchoOk req p = true → 0 < left →
      jobNext par (.read addr chunk left req acc) (.ok (.reply (some p))) =
        (.read (addr + chunk) (min 16 left) (left - min 16 left)
            (ask (nvmAddr (addr + chunk)) (addr + chunk) (min 16 left)) (acc ++ (Config.nvmReadData p).take 16),
          .call (ask (nvmAddr (addr + chunk)) (addr + chunk) (min 16 left)) true par.replyTimeout)) ∧
    (jobNext par (.read addr chunk left req acc) (.err k b)).2 = .done (.err k b)

/-- R194, R14: with chunks of 16 bytes, `writeRange` sends at most 16 data bytes a request, in order, behind an 8- or 16-bit count
of them, each acknowledged chunk followed by the rest of the bytes at the offset behind it, and is done when none is left; a
zero status at any chunk, the last one included, ends it with `WriteFailed`, and an error of a `call` is passed up (R244). The
width and byte order of the length field are not in the source and the place of the status is the model's reading
(notes/assumptions/21); that a response with a non-zero status acknowledges its chunk whatever opcode it echoes is
notes/assumptions/37, and that no bytes make no request is notes/assumptions/38. -/
def Obligations.WriteRangeWritesInChunks : Prop :=
  ∃ field : Nat → List Byte,
  ((∀ n, field n = [BitVec.ofNat 8 n]) ∨ (∀ n, field n = [BitVec.ofNat 8 (n / 256), BitVec.ofNat 8 n]) ∨
    (∀ n, field n = [BitVec.ofNat 8 n, BitVec.ofNat 8 (n / 256)])) ∧
  ∀ (par : Params) (start : Addr24) (addr chunk : Nat) (bytes rest b : List Byte) (op st : Byte) (k : ErrKind),
    par.chunkMax = 16 → bytes ≠ [] → st ≠ 0x00#8 →
    let sent := fun a : Addr24 => HostAct.call
      ([0x2B#8] ++ addrBytes a ++ field (min 16 bytes.length) ++ bytes.take 16) true
      par.replyTimeout
    (jobBegin par (.writeRange start [])).map Prod.snd = some (.done (.ok .unit)) ∧
    jobBegin par (.writeRange start bytes) =
      some (.write start.toNat (min 16 bytes.length) (bytes.drop 16), sent start) ∧
    jobNext par (.write addr chunk bytes) (.ok (.reply (some [op, st]))) =
      (.write (addr + chunk) (min 16 bytes.length) (bytes.drop 16), sent (nvmAddr (addr + chunk))) ∧
    (jobNext par (.write addr chunk []) (.ok (.reply (some [op, st])))).2 = .done (.ok .unit) ∧
    (jobNext par (.write addr chunk rest) (.ok (.reply (some [op, 0x00#8])))).2 = .done (.err .writeFailed []) ∧
    (jobNext par (.write addr chunk rest) (.err k b)).2 = .done (.err k b)

/-- R191, R206, R244: `identify` is one request with payload `29` and one response, whose bytes the host reads; an error is
passed up. Which of the bytes is which is not in the source (free values, notes/assumptions/21), and that the echoed opcode is
not checked, and that every response answers `Ok` whatever its length and its status field, are the model's choices
(notes/assumptions/37 and 42). -/
def Obligations.IdentifyIsOneExchange : Prop :=
  ∀ (par : Params) (p : List Byte) (k : ErrKind), ∃ m d : List Byte,
    jobBegin par .identify = some (.identify, .call [0x29#8] true par.replyTimeout) ∧
    (jobNext par .identify (.ok (.reply (some p)))).2 = .done (.ok (.identity m d)) ∧
    (jobNext par .identify (.err k [])).2 = .done (.err k [])

/-- R202, R210: factory reset sends `42` and expects no reply; soft reset follows it; soft reset sends `08`, expects no
reply, and its callback is awaited and handed on. A failure at any of them ends the sequence with that error (R244). That the
two sequences are operations of the host, whose caller gives the timeout of the callback, is the model's choice
(notes/assumptions/19). -/
def Obligations.ResetCommandsRunTheirSequences : Prop :=
  ∀ (par : Params) (t : Nat) (k : ErrKind) (r : OpResult),
    let soft := HostAct.call [0x08#8] false par.replyTimeout
    jobBegin par (.factoryReset t) = some (.factoryReset t, .call [0x42#8] false par.replyTimeout) ∧
    jobNext par (.factoryReset t) (.ok (.reply none)) = (.softReset t, soft) ∧
    jobBegin par (.softReset t) = some (.softReset t, soft) ∧
    jobNext par (.softReset t) (.ok (.reply none)) = (.resetCallback, .await t) ∧
    (jobNext par .resetCallback r).2 = .done r ∧
    (jobNext par (.factoryReset t) (.err k [])).2 = .done (.err k []) ∧
    (jobNext par (.softReset t) (.err k [])).2 = .done (.err k [])

/-- R62: an NVM address `A` is the payload bytes `A[23:16]`, `A[15:8]`, `A[7:0]`, most significant first, and the HomeID of a
response is read big-endian. -/
def Obligations.MultiByteValuesAreBigEndian : Prop :=
  (∀ a : Addr24, addrBytes a = [a.extractLsb' 16 8, a.extractLsb' 8 8, a.extractLsb' 0 8]) ∧
  (∀ h m l : Byte, addrBytes (addr24 h m l) = [h, m, l]) ∧
  (∀ (op a b c d n : Byte) (rest : List Byte), ∃ home : BitVec 32,
    homeNodeOf (op :: a :: b :: c :: d :: n :: rest) = some (home, n) ∧
    home.toNat = a.toNat * 2 ^ 24 + b.toNat * 2 ^ 16 + c.toNat * 2 ^ 8 + d.toNat)

/-- R197, R211, R212, R244: add-node and remove-node begin with their start command, whose first reply is awaited, and never end
without their cleanup stop: before it, whatever a `call` or `awaitCallback` returns, the next act is another wait or a stop
command, and from the stop commands no way leads back into the loop. An error of a `call` or `awaitCallback` ends the loop in
`Failed`, and the first error met, one of a stop included, is passed up when the cleanup has returned. The mode and option
bytes are free, and how failures and stops are read is the model's (notes/assumptions/22); that a protocol which met no error
answers `Ok` with where it ended, `Failed` included, is notes/assumptions/40. -/
def Obligations.MembershipAlwaysSendsItsStop : Prop :=
  ∀ (par : Params) (adding : Bool) (st : Membership) (node : Option Byte) (e : Option ErrKind) (k k' : ErrKind)
    (b : List Byte) (v : OkValue) (r : OpResult),
    let op : Byte := if adding then 0x4A#8 else 0x4B#8
    let command := fun mode : Byte => [op, mode, Config.txOptions op mode]
    let stop := HostAct.call (command (Config.modeStop op)) false par.membershipTimeout
    jobBegin par (if adding then .addNode else .removeNode) =
      some (.member adding .idle none, .call (command (Config.modeStart op)) true par.membershipTimeout) ∧
    (((jobNext par (.member adding st node) r).2 = .await par.membershipTimeout ∧
        ∃ st' node', (jobNext par (.member adding st node) r).1 = .member adding st' node') ∨
      ((jobNext par (.member adding st node) r).2 = stop ∧
        ((jobNext par (.member adding st node) r).1 = .memberStop adding node ∨
          ∃ e', (jobNext par (.member adding st node) r).1 = .memberCleanup .failed node e'))) ∧
    jobNext par (.member adding st node) (.err k b) = (.memberCleanup .failed node (some k), stop) ∧
    ((jobNext par (.memberStop adding node) r).2 = stop ∧
      ∃ final e', (final = .done ∨ final = .failed) ∧
        (jobNext par (.memberStop adding node) r).1 = .memberCleanup final node e') ∧
    (jobNext par (.memberStop adding node) (.ok v)).1 = .memberCleanup .done node none ∧
    (jobNext par (.memberStop adding node) (.err k b)).1 = .memberCleanup .failed node (some k) ∧
    (∃ r', (jobNext par (.memberCleanup st node e) r).2 = .done r') ∧
    (jobNext par (.memberCleanup st node none) (.ok (.reply none))).2 = .done (.ok (.membership st node)) ∧
    (jobNext par (.memberCleanup st node none) (.err k b)).2 = .done (.membershipErr k st node) ∧
    (jobNext par (.memberCleanup st node (some k')) r).2 = .done (.membershipErr k' st node)

/-! ### Reset and session -/

/-- R36, R260, R261, R236 (decision D17): whatever the queue holds and whatever the time, opening the link makes a Transport
that is `Idle`, has no send in progress, an empty body and nothing transmitted; a port that cannot be opened makes no
Transport. `State.reset` is one such Transport. -/
def Obligations.OpeningTheLinkIsReset : Prop :=
  (∀ (q : List Byte) (now : Nat) (par : Params), openLink false q now par = .error .linkOpenFailure ∧
    ∃ s, openLink true q now par = .ok s ∧ s.phase = .idle ∧ s.pend = none ∧ s.rxBuf = [] ∧ s.txlog = [] ∧
      s.rxq = q ∧ s.now = now ∧ s.par = par) ∧
  ∃ q now, openLink true q now Config.params = .ok State.reset

/-! ### Whole-machine rules -/

/-- The invariant of R35 (1) to (3), R69, R52 and R190 (`StateInv`) holds at reset, whatever the queue holds. -/
def Obligations.InvariantHoldsAtReset : Prop := StateInv State.reset

/-- R35 (derived): every step of every agent keeps the invariant: a send is in progress exactly in the send phases, its
attempts are those of the phase and never more than two, a body never outgrows what LEN announced, the transmit history
is the concatenation of the write events, the queue stays within its capacity, and a host operation in progress has an
exchange in progress. -/
def Obligations.EveryStepKeepsTheInvariant : Prop :=
  ∀ s t : State, StateInv s → step s = .next t → StateInv t

/-- R32, R29, R35 (4), R64: no step of any agent turns time back, takes back or reorders a transmitted byte, an event or an
outcome, or changes a parameter. -/
def Obligations.HistoriesOnlyGrow : Prop :=
  ∀ s t : State, step s = .next t → Grows s t

/-- R55, R84, R161: what one step transmits is nothing, one `ACK`, the frame of the send in progress, or one `ACK` and then
that frame; the block never transmits `NAK`, `CAN` or any other byte of its own. -/
def Obligations.OnlyAckAndTheFrameAreTransmitted : Prop :=
  ∀ s t : State, step s = .next t → ∃ tx : List Byte, t.txlog = s.txlog ++ tx ∧
    (tx = [] ∨ tx = [0x06#8] ∨ ∃ p ∈ s.pend, tx = p.frame ∨ tx = 0x06#8 :: p.frame)

/-- R25, R161 (1): the bytes of a send in progress never change, its attempts never go down, and it is given up only with an
outcome. -/
def Obligations.PendingFrameNeverChanges : Prop :=
  ∀ (s t : State) (p : Pending), StateInv s → s.pend = some p → step s = .next t →
    (∃ q, t.pend = some q ∧ q.frame = p.frame ∧ p.attempts ≤ q.attempts) ∨
    (t.pend = none ∧ t.phase = .idle ∧ ∃ r, t.outlog = s.outlog ++ [r])

/-- R35 (5), R31, R51: nothing leaves the queue in `Idle`, in `RecvAck`, or in `SendBackoff` before its deadline: there the queue
is only appended to. In every phase only Transport takes bytes, and only at the head: a move of Transport's, the default step of
an empty schedule, and a `drain` leave a tail of the queue; a unit's arrival leaves a tail of the queue with its bytes behind it
(notes/assumptions/11); every other move leaves the queue as it is or appends to it. -/
def Obligations.NothingIsReadWhereNothingIsReadable : Prop :=
  ∀ s t : State, step s = .next t →
    ((s.phase = .idle ∨ s.phase = .recvAck ∨ (s.phase = .sendBackoff ∧ ∃ p ∈ s.pend, s.now < p.deadline)) →
      s.rxq <+: t.rxq) ∧
    (s.sched = [] → t.rxq <:+ s.rxq) ∧
    (∀ rest, s.sched = .transport :: rest ∨ s.sched = .fetch (.operation .drain) :: rest → t.rxq <:+ s.rxq) ∧
    (∀ bytes rest, s.sched = .fetch (.link bytes) :: rest → t.rxq <:+ s.rxq ++ bytes) ∧
    (∀ i bytes rest, s.sched = .fetch (.operation i) :: rest → imageOf i = .link bytes → t.rxq <:+ s.rxq ++ bytes) ∧
    (∀ m rest, s.sched = m :: rest → m ≠ .transport → m ≠ .fetch (.operation .drain) →
      (∀ bytes, m ≠ .fetch (.link bytes)) → (∀ i bytes, m = .fetch (.operation i) → imageOf i ≠ .link bytes) →
      s.rxq <+: t.rxq)

/-- R27, R140, R162 (derived): the transitions of the two tables are the only ones. A step that is not the arrival of a unit
keeps the phase or makes one transition of a table. -/
def Obligations.OnlyTheTablesTransitions : Prop :=
  ∀ s t : State, step s = .next t → (∀ bytes rest, s.sched ≠ .fetch (.link bytes) :: rest) →
    (∀ i rest, s.sched ≠ .fetch (.operation i) :: rest ∨ ∀ bytes, imageOf i ≠ .link bytes) →
    t.phase = s.phase ∨
    (s.phase, t.phase) ∈ [(Phase.idle, Phase.sendStart), (.idle, .syncOnly), (.idle, .recvSync),
      (.syncOnly, .idle), (.recvSync, .recvLen), (.recvSync, .idle), (.recvLen, .recvBody), (.recvLen, .recvAck),
      (.recvLen, .idle), (.recvBody, .recvAck), (.recvBody, .idle), (.recvAck, .idle),
      (.sendStart, .sendWait1), (.sendWait1, .idle), (.sendWait1, .sendWait2T), (.sendWait1, .sendBackoff),
      (.sendBackoff, .sendWait2N), (.sendWait2T, .idle), (.sendWait2N, .idle)]

/-- R230, R242: an operation in progress ends only by handing the host exactly one outcome, with the block `Idle` and no send
in progress. -/
def Obligations.OperationsEndWithOneOutcome : Prop :=
  ∀ s t : State, step s = .next t → s.phase ≠ .idle → t.phase = .idle →
    t.pend = none ∧ ∃ r, t.outlog = s.outlog ++ [r]

/-- R28: the two flags are written nowhere else: `chkOk` changes only in a step from `RecvAck`, `hadStale` only in one from
`SendStart`. -/
def Obligations.FlagsAreWrittenInOnePhaseOnly : Prop :=
  ∀ s t : State, step s = .next t →
    (s.phase ≠ .recvAck → t.chkOk = s.chkOk) ∧ (s.phase ≠ .sendStart → t.hadStale = s.hadStale)

/-! ### Whole operations -/

/-- R131 (E3): `syncToFrameStart` on a queue of garbage without `0x01`, then `SOF`, then anything, consumes exactly the
garbage and the `SOF`, returns `Ok(())`, writes nothing and leaves the rest, whatever its timeout. -/
def Obligations.SyncConsumesExactlyTheGarbage : Prop :=
  ∀ (g q : List Byte) (timeout : Nat) (s : State), s.phase = .idle → s.exch = none → s.job = none →
    s.rxq = g ++ 0x01#8 :: q → 0x01#8 ∉ g →
    s.sched = .fetch (.operation (.syncToFrameStart timeout)) :: List.replicate (g.length + 1) .transport →
    ∃ t, run (g.length + 2) s = .next t ∧
      t.phase = .idle ∧ t.rxq = q ∧ t.txlog = s.txlog ∧ t.outlog = s.outlog ++ [.ok .unit] ∧
      t.events = s.events ++ (g ++ [0x01#8]).map .read

/-- R133: `receiveFrame` on a queue of garbage without `0x01`, `SOF`, LEN, the bytes LEN announces and anything after them
returns the body with the verdict of the seeded fold, writes exactly one `ACK`, and leaves the rest, whatever the timeouts. -/
def Obligations.ReceiveFrameDeliversTheBody : Prop :=
  ∀ (g body q : List Byte) (len : Byte) (timeout : Nat) (s : State), s.phase = .idle → s.exch = none → s.job = none →
    s.rxq = g ++ 0x01#8 :: len :: body ++ q → 0x01#8 ∉ g → body.length = len.toNat + 2 - s.par.lenBias.toNat →
    s.sched = .fetch (.operation (.receiveFrame timeout)) ::
      List.replicate (g.length + body.length + 3) .transport →
    ∃ (t : State) (ok : Bool), run (g.length + body.length + 4) s = .next t ∧
      (ok = true ↔ (len :: body).foldl (fun a x => a ^^^ x) 0xFF#8 = 0x00#8) ∧
      t.phase = .idle ∧ t.rxq = q ∧ t.rxLen = len ∧ t.rxBuf = body ∧ t.chkOk = ok ∧
      t.txlog = s.txlog ++ [0x06#8] ∧ t.outlog = s.outlog ++ [.ok (.received body ok)]

/-- R152, R161 (E4): `sendFrame` to a silent peer writes the frame exactly twice, one `ACK` between, one before the first
when the queue held stale bytes, waits 500 ms and then 1500 ms, and returns `NoAcknowledgment`, in the run in which Transport
moves when it can and time advances by just those two waits. -/
def Obligations.SilentPeerGetsExactlyTwoSends : Prop :=
  ∀ (f : List Byte) (s : State), s.phase = .idle → s.exch = none → s.job = none →
    s.sched = [.fetch (.operation (.sendFrame f)), .transport, .time 500, .transport, .time 1500, .transport] →
    ∃ t, run 6 s = .next t ∧ t.phase = .idle ∧ t.pend = none ∧ t.rxq = [] ∧
      t.now = s.now + 2000 ∧ t.outlog = s.outlog ++ [.err .noAcknowledgment []] ∧
      t.txlog = s.txlog ++ (if s.rxq = [] then [] else [0x06#8]) ++ f ++ [0x06#8] ++ f

/-- R24 (derived), R36: no operation observes a working register that an earlier one left: two states that differ only in
registers that are dead in their phase answer steps that again differ only in dead registers, and the same outcomes,
transmitted bytes and events. -/
def Obligations.DeadRegistersAreNeverObserved : Prop :=
  ∀ s : State,
    match step s, step (forgetDead s) with
    | .next t, .next u => forgetDead t = forgetDead u
    | .fault e, .fault f => e = f
    | _, _ => False
end

