-- ==== Sys2Proof/Laws/Codec.lean ====
section
/-! SUPPORT. The laws of the checksum fold and of the codec's helpers. -/

namespace Sys2Proof.Machine

theorem foldXor_eq_foldl (xs : List Byte) : ∀ a, foldXor a xs = xs.foldl (fun a x => a ^^^ x) a := by
  induction xs with
  | nil => intro a; rfl
  | cons x xs ih => intro a; simp [foldXor, ih]

theorem checksumOf_eq_foldl (xs : List Byte) : checksumOf xs = xs.foldl (fun a x => a ^^^ x) 0xFF#8 :=
  foldXor_eq_foldl xs _

theorem foldXor_append (xs ys : List Byte) : ∀ a, foldXor a (xs ++ ys) = foldXor (foldXor a xs) ys := by
  induction xs with
  | nil => intro a; rfl
  | cons x xs ih => intro a; simp [foldXor, ih]

/-- The seed comes out of the fold. -/
theorem foldXor_seed (xs : List Byte) : ∀ a b : Byte, foldXor (a ^^^ b) xs = a ^^^ foldXor b xs := by
  induction xs with
  | nil => intro a b; rfl
  | cons x xs ih => intro a b; rw [foldXor, foldXor, ← ih, BitVec.xor_assoc]

/-- A sequence followed by its own checksum folds to zero (R110). -/
theorem checksumOf_append_self (xs : List Byte) : checksumOf (xs ++ [checksumOf xs]) = 0x00#8 := by
  simp [checksumOf, foldXor_append, foldXor]

/-- The numbers 1 and 2 are the only biases. -/
theorem lenBias_cases (b : LenBias) : b.toNat = 1 ∨ b.toNat = 2 := by cases b <;> simp [LenBias.toNat]

/-- LEN of a payload that fits does not wrap (R82). -/
theorem lenByte_toNat {b : LenBias} {n : Nat} (h : n ≤ maxPayload b) : (lenByte b n).toNat = n + b.toNat := by
  have hb := lenBias_cases b
  simp only [maxPayload] at h
  simp only [lenByte, BitVec.toNat_ofNat]
  omega

/-- For a frame that `encode` builds, `FOLLOW(LEN) = n + 2` under either bias (R83). -/
theorem follow_lenByte {b : LenBias} {n : Nat} (h : n ≤ maxPayload b) : follow b (lenByte b n) = n + 2 := by
  rw [follow, lenByte_toNat h]
  omega

theorem encodeFrame_of_le {b : LenBias} {t : Byte} {p : List Byte} (h : p.length ≤ maxPayload b) :
    encodeFrame b t p = some (frameBytes (lenByte b p.length) t p (frameChecksum b t p)) := by
  simp [encodeFrame, h]

theorem encodeFrame_of_lt {b : LenBias} {t : Byte} {p : List Byte} (h : maxPayload b < p.length) :
    encodeFrame b t p = none := by
  simp [encodeFrame, Nat.not_le.2 h]

/-- A frame that `encode` builds passes the verifying fold (R87). -/
theorem frame_folds_to_zero (b : LenBias) (t : Byte) (p : List Byte) :
    checksumOf (lenByte b p.length :: t :: (p ++ [frameChecksum b t p])) = 0x00#8 := by
  rw [frameChecksum, ← List.cons_append, ← List.cons_append]
  exact checksumOf_append_self _

end Sys2Proof.Machine
end

