-- ==== Sys2Proof/Laws/Decode.lean ====
section
/-! SUPPORT. The laws of the decoder's helpers: NVM offsets, frames, commands. -/

namespace Sys2Proof

/-- Three big-endian bytes and back (R62). -/
theorem joinAddr_addrBytes (a : Addr24) :
    joinAddr (BitVec.ofNat 8 (a.toNat / 65536)) (BitVec.ofNat 8 (a.toNat / 256)) (BitVec.ofNat 8 a.toNat) = a := by
  apply BitVec.eq_of_toNat_eq
  have := a.isLt
  simp only [joinAddr, BitVec.toNat_ofNat]
  omega

/-- The bytes of three joined bytes (R62). -/
theorem addrBytes_joinAddr (h m l : Byte) : addrBytes (joinAddr h m l) = [h, m, l] := by
  have hh := h.isLt
  have hm := m.isLt
  have hl := l.isLt
  simp only [addrBytes, joinAddr, BitVec.toNat_ofNat, List.cons.injEq, and_true]
  refine ⟨?_, ?_, ?_⟩ <;> (apply BitVec.eq_of_toNat_eq; simp only [BitVec.toNat_ofNat]; omega)

/-- A frame of the table whose payload has the length LEN announces decodes with all its operands (R81, R97). -/
theorem decodeLink_frame {b : LenBias} {len ty chk : Byte} {p : List Byte}
    (hp : p.length = follow b len - 2) (ht : ty = Config.typeRequest ∨ ty = Config.typeResponse) :
    decodeLink b (frameBytes len ty p chk) =
      .ok (if ty = Config.typeRequest then .request len p chk else .response len p chk) := by
  simp only [decodeLink, decodeUnit, frameBytes, if_true, decodeFrame, ht, ← hp, List.drop_left, List.take_left]
  by_cases h : ty = Config.typeRequest <;> simp [h]

/-- A unit on the link is one of the six units (R80). -/
theorem decodeUnit_ok {b : LenBias} {bytes left : List Byte} {i : Instr} (h : decodeUnit b bytes = .ok (i, left)) :
    ∃ bs, imageOf i = .link bs := by
  unfold decodeUnit at h
  split at h
  · exact nomatch h
  · split at h
    · unfold decodeFrame at h
      split at h
      · obtain ⟨rfl, -⟩ := Prod.mk.inj (Except.ok.inj h)
        exact ⟨_, rfl⟩
      · exact nomatch h
      · split at h
        · split at h
          · exact nomatch h
          · split at h <;> (obtain ⟨rfl, -⟩ := Prod.mk.inj (Except.ok.inj h); exact ⟨_, rfl⟩)
        · exact nomatch h
    · split at h
      · obtain ⟨rfl, -⟩ := Prod.mk.inj (Except.ok.inj h)
        exact ⟨_, rfl⟩
      · split at h
        · obtain ⟨rfl, -⟩ := Prod.mk.inj (Except.ok.inj h)
          exact ⟨_, rfl⟩
        · split at h
          · obtain ⟨rfl, -⟩ := Prod.mk.inj (Except.ok.inj h)
            exact ⟨_, rfl⟩
          · exact nomatch h

theorem decodeLink_ok {b : LenBias} {bytes : List Byte} {i : Instr} (h : decodeLink b bytes = .ok i) :
    ∃ bs, imageOf i = .link bs := by
  unfold decodeLink at h
  split at h
  · rename_i hu
    obtain rfl := Except.ok.inj h
    exact decodeUnit_ok hu
  · exact nomatch h
  · exact nomatch h

/-! ### When a command of each shape decodes, and to what -/

theorem commandNone_ok {op : Byte} {i j : Instr} {args : List Byte} (h : commandNone op i args = .ok j) :
    args = [] ∧ j = i := by
  cases args with
  | nil => exact ⟨rfl, (Except.ok.inj h).symm⟩
  | cons => exact nomatch h

theorem commandTwo_ok {op : Byte} {f : Byte → Byte → Instr} {args : List Byte} {j : Instr}
    (h : commandTwo op f args = .ok j) : ∃ x y, args = [x, y] ∧ j = f x y := by
  unfold commandTwo at h
  split at h
  · exact ⟨_, _, rfl, (Except.ok.inj h).symm⟩
  · exact nomatch h

theorem commandRead_ok {op : Byte} {args : List Byte} {j : Instr} (h : commandRead op args = .ok j) :
    ∃ a b c x y, args = [a, b, c, x, y] ∧ j = .nvmExtRead (joinAddr a b c) x y := by
  unfold commandRead at h
  split at h
  · exact ⟨_, _, _, _, _, rfl, (Except.ok.inj h).symm⟩
  · exact nomatch h

theorem commandWriteRange_ok {op : Byte} {args : List Byte} {j : Instr} (h : commandWriteRange op args = .ok j) :
    ∃ a b c rest, args = a :: b :: c :: rest ∧ j = .nvmExtWriteRange (joinAddr a b c) rest := by
  unfold commandWriteRange at h
  split at h
  · exact ⟨_, _, _, _, rfl, (Except.ok.inj h).symm⟩
  · exact nomatch h

theorem commandWriteByte_ok {op : Byte} {args : List Byte} {j : Instr} (h : commandWriteByte op args = .ok j) :
    ∃ a b c v, args = [a, b, c, v] ∧ j = .nvmExtWriteByte (joinAddr a b c) v := by
  unfold commandWriteByte at h
  split at h
  · exact ⟨_, _, _, _, rfl, (Except.ok.inj h).symm⟩
  · exact nomatch h

theorem commandFirmware_ok {op : Byte} {args : List Byte} {j : Instr} (h : commandFirmware op args = .ok j) :
    ∃ c rest, args = c :: rest ∧ j = .fwUpdateNvm c rest := by
  unfold commandFirmware at h
  split at h
  · exact ⟨_, _, rfl, (Except.ok.inj h).symm⟩
  · exact nomatch h

/-- A command decodes only as the row of its opcode, with the arguments of that row (R94, R200 to R213). -/
theorem decodeOpcode_ok {op : Byte} {args : List Byte} {j : Instr} (h : decodeOpcode op args = .ok j) :
    imageOf j = .command (op :: args) := by
  unfold decodeOpcode at h
  by_cases h0 : op = 0x02#8
  · rw [if_pos h0] at h
    subst h0
    obtain ⟨rfl, rfl⟩ := commandNone_ok h
    rfl
  rw [if_neg h0] at h
  by_cases h1 : op = 0x07#8
  · rw [if_pos h1] at h
    subst h1
    obtain ⟨rfl, rfl⟩ := commandNone_ok h
    rfl
  rw [if_neg h1] at h
  by_cases h2 : op = 0x08#8
  · rw [if_pos h2] at h
    subst h2
    obtain ⟨rfl, rfl⟩ := commandNone_ok h
    rfl
  rw [if_neg h2] at h
  by_cases h3 : op = 0x09#8
  · rw [if_pos h3] at h
    subst h3
    obtain rfl := Except.ok.inj h
    rfl
  rw [if_neg h3] at h
  by_cases h4 : op = 0x15#8
  · rw [if_pos h4] at h
    subst h4
    obtain ⟨rfl, rfl⟩ := commandNone_ok h
    rfl
  rw [if_neg h4] at h
  by_cases h5 : op = 0x20#8
  · rw [if_pos h5] at h
    subst h5
    obtain ⟨rfl, rfl⟩ := commandNone_ok h
    rfl
  rw [if_neg h5] at h
  by_cases h6 : op = 0x29#8
  · rw [if_pos h6] at h
    subst h6
    obtain ⟨rfl, rfl⟩ := commandNone_ok h
    rfl
  rw [if_neg h6] at h
  by_cases h7 : op = 0x2A#8
  · rw [if_pos h7] at h
    subst h7
    obtain ⟨_, _, _, _, _, rfl, rfl⟩ := commandRead_ok h
    rw [imageOf, addrBytes_joinAddr]
    rfl
  rw [if_neg h7] at h
  by_cases h8 : op = 0x2B#8
  · rw [if_pos h8] at h
    subst h8
    obtain ⟨_, _, _, _, rfl, rfl⟩ := commandWriteRange_ok h
    rw [imageOf, addrBytes_joinAddr]
    rfl
  rw [if_neg h8] at h
  by_cases h9 : op = 0x2D#8
  · rw [if_pos h9] at h
    subst h9
    obtain ⟨_, _, _, _, rfl, rfl⟩ := commandWriteByte_ok h
    rw [imageOf, addrBytes_joinAddr]
    rfl
  rw [if_neg h9] at h
  by_cases h10 : op = 0x42#8
  · rw [if_pos h10] at h
    subst h10
    obtain ⟨rfl, rfl⟩ := commandNone_ok h
    rfl
  rw [if_neg h10] at h
  by_cases h11 : op = 0x4A#8
  · rw [if_pos h11] at h
    subst h11
    obtain ⟨_, _, rfl, rfl⟩ := commandTwo_ok h
    rfl
  rw [if_neg h11] at h
  by_cases h12 : op = 0x4B#8
  · rw [if_pos h12] at h
    subst h12
    obtain ⟨_, _, rfl, rfl⟩ := commandTwo_ok h
    rfl
  rw [if_neg h12] at h
  by_cases h13 : op = 0x78#8
  · rw [if_pos h13] at h
    subst h13
    obtain ⟨_, _, rfl, rfl⟩ := commandFirmware_ok h
    rfl
  rw [if_neg h13] at h
  exact nomatch h

end Sys2Proof
end

