-- ==== Sys2Proof/Laws/Ops.lean ====
section
/-! SUPPORT. When the operations of the link succeed, when the host may issue an operation, and what a `call` does. -/

namespace Sys2Proof.Machine

/-- There is room exactly when a finite capacity is not exceeded (R52). -/
theorem roomFor_iff (n : Nat) (s : State) :
    roomFor n s = true ↔ ∀ c ∈ s.par.rxCapacity, s.rxq.length + n ≤ c := by
  unfold roomFor
  cases s.par.rxCapacity <;> simp

/-- What a peer step can do: append, within the capacity (R51, R52). -/
theorem deliver_next {bs : List Byte} {s t : State} (h : deliver bs s = .next t) :
    roomFor bs.length s = true ∧ t = { s with rxq := s.rxq ++ bs } := by
  unfold deliver at h
  split at h
  · exact ⟨‹_›, (Host.Outcome.next.inj h).symm⟩
  · exact nomatch h

theorem deliver_of_room {bs : List Byte} {s : State} (h : roomFor bs.length s = true) :
    deliver bs s = .next { s with rxq := s.rxq ++ bs } := by
  simp [deliver, h]

/-- A peer step past the capacity stops (R52). -/
theorem deliver_of_full {bs : List Byte} {s : State} (h : roomFor bs.length s = false) :
    deliver bs s = .fault .rxOverflow := by
  simp [deliver, h]

/-- What a `drain` answers: how many bytes were queued, and an empty queue (R54, R151). -/
@[simp] theorem drain_fst (s : State) : (drain s).1 = s.rxq.length := rfl
@[simp] theorem drain_snd (s : State) : (drain s).2 = rxDrain s := rfl

/-- A deadline that has passed is a deadline (R53). -/
theorem expired_iff (s : State) : expired s = true ↔ ∃ d, deadlineOf s = some d ∧ d ≤ s.now := by
  unfold expired
  cases deadlineOf s <;> simp

/-- When the host may issue an operation (R21, R185). -/
theorem free_iff (s : State) : s.free = true ↔ s.phase = .idle ∧ s.exch = none ∧ s.job = none := by
  simp [State.free, and_assoc]

theorem not_free {s : State} (h : s.phase ≠ .idle ∨ s.exch ≠ none ∨ s.job ≠ none) : s.free = false := by
  rw [Bool.eq_false_iff, ne_eq, free_iff]
  rintro ⟨h1, h2, h3⟩
  simp [h1, h2, h3] at h

/-! ### call -/

/-- What the block's side of `call` can do: the exchange and the send begin, and the payload fits (R181). -/
theorem sendCommand_some {p : List Byte} {e : Bool} {n : Nat} {s t : State} (h : sendCommand p e n s = some t) :
    p.length ≤ maxPayload s.par.lenBias ∧
      t = beginSend (frameBytes (lenByte s.par.lenBias p.length) Config.typeRequest p
          (frameChecksum s.par.lenBias Config.typeRequest p))
        { s with exch := some { wait := .handshake e n, got := none } } := by
  by_cases hp : p.length ≤ maxPayload s.par.lenBias
  · simp only [sendCommand, encodeFrame_of_le hp, Option.map_some, Option.some.injEq] at h
    exact ⟨hp, h.symm⟩
  · simp [sendCommand, encodeFrame_of_lt (Nat.not_le.1 hp)] at h

/-- `call` of an idle channel with a payload that fits. -/
theorem startCall_of_free {s : State} {p : List Byte} {e : Bool} {n : Nat} (hs : s.free = true)
    (hp : p.length ≤ maxPayload s.par.lenBias) :
    startCall p e n s =
      beginSend (frameBytes (lenByte s.par.lenBias p.length) Config.typeRequest p
          (frameChecksum s.par.lenBias Config.typeRequest p))
        { s with exch := some { wait := .handshake e n, got := none } } := by
  simp [startCall, hs, sendCommand, encodeFrame_of_le hp]

/-- `call` of a busy channel. -/
theorem startCall_of_not_free {s : State} {p : List Byte} {e : Bool} {n : Nat} (hs : s.free = false) :
    startCall p e n s = refuse s := by
  simp [startCall, hs]

/-- `call` with a payload that does not fit. -/
theorem startCall_of_long {s : State} {p : List Byte} {e : Bool} {n : Nat}
    (hp : maxPayload s.par.lenBias < p.length) : startCall p e n s = refuse s := by
  simp [startCall, sendCommand, encodeFrame_of_lt hp]

/-- An NVM address is the offset it stands for (R14). -/
theorem nvmAddr_toNat (a : Addr24) : nvmAddr a.toNat = a := by
  simp [nvmAddr, a.isLt]

/-- The three bytes of an NVM offset joined by place values. -/
theorem addrBytes_addr24 (h m l : Byte) : addrBytes (Safety.addr24 h m l) = [h, m, l] := by
  have hh := h.isLt
  have hm := m.isLt
  have hl := l.isLt
  simp only [addrBytes, Safety.addr24, BitVec.toNat_ofNat, List.cons.injEq, and_true]
  refine ⟨?_, ?_, ?_⟩ <;> (apply BitVec.eq_of_toNat_eq; simp only [BitVec.toNat_ofNat]; omega)

end Sys2Proof.Machine
end

