-- ==== Sys2Proof/Laws/PerInstr.lean ====
section
/-! SUPPORT. One statement per instruction: its bytes match its row of the opcode table (R97). -/

namespace Sys2Proof.Laws

/-- A row of the opcode table: its format, and the bytes of its `match` and `mask`, first byte most significant (R97). -/
inductive Row where
  | link (pattern mask : List Byte)
  | payload (opcode : Byte)
  | op

/-- The rows, in the table's order. -/
def rowOf : Instr → Row
  | .sof => .link [0x01#8] [0xFF#8]
  | .ack => .link [0x06#8] [0xFF#8]
  | .nak => .link [0x15#8] [0xFF#8]
  | .can => .link [0x18#8] [0xFF#8]
  | .request _ _ _ => .link [0x01#8, 0x00#8, 0x00#8] [0xFF#8, 0x00#8, 0xFF#8]
  | .response _ _ _ => .link [0x01#8, 0x00#8, 0x01#8] [0xFF#8, 0x00#8, 0xFF#8]
  | .checksum _ => .op
  | .encode _ _ => .op
  | .decode _ => .op
  | .syncToFrameStart _ => .op
  | .receiveFrame _ => .op
  | .drain => .op
  | .sendFrame _ => .op
  | .getInitData => .payload 0x02#8
  | .getCapabilities => .payload 0x07#8
  | .softReset => .payload 0x08#8
  | .getProtocolVersion _ => .payload 0x09#8
  | .getLibraryVersion => .payload 0x15#8
  | .getHomeNodeId => .payload 0x20#8
  | .nvmGetManufacturerId => .payload 0x29#8
  | .nvmExtRead _ _ _ => .payload 0x2A#8
  | .nvmExtWriteRange _ _ => .payload 0x2B#8
  | .nvmExtWriteByte _ _ => .payload 0x2D#8
  | .factoryReset => .payload 0x42#8
  | .addNode _ _ => .payload 0x4A#8
  | .removeNode _ _ => .payload 0x4B#8
  | .fwUpdateNvm _ _ => .payload 0x78#8

/-- The bytes agree with a pattern where the mask is set. -/
abbrev matchesRow (pattern mask bytes : List Byte) : Prop :=
  pattern.length ≤ bytes.length ∧ List.zipWith (· &&& ·) mask bytes = pattern

/-- An instruction's image is one that its row of the table matches. -/
def TableMatch.Statement (i : Instr) : Prop :=
  match rowOf i with
  | .link pattern mask => ∃ bytes, imageOf i = .link bytes ∧ matchesRow pattern mask bytes
  | .payload opcode => ∃ args, imageOf i = .command (opcode :: args)
  | .op => imageOf i = .operation i

namespace TableMatch

theorem sof : Statement .sof := ⟨_, rfl, by decide⟩
theorem ack : Statement .ack := ⟨_, rfl, by decide⟩
theorem nak : Statement .nak := ⟨_, rfl, by decide⟩
theorem can : Statement .can := ⟨_, rfl, by decide⟩
theorem request (len : Byte) (p : List Byte) (c : Byte) : Statement (.request len p c) :=
  ⟨_, rfl, by simp [frameBytes], by simp [frameBytes, Config.sof, Config.typeRequest]⟩
theorem response (len : Byte) (p : List Byte) (c : Byte) : Statement (.response len p c) :=
  ⟨_, rfl, by simp [frameBytes], by simp [frameBytes, Config.sof, Config.typeResponse]⟩
theorem checksum (xs : List Byte) : Statement (.checksum xs) := rfl
theorem encode (t : Byte) (p : List Byte) : Statement (.encode t p) := rfl
theorem decode (r : List Byte) : Statement (.decode r) := rfl
theorem syncToFrameStart (t : Nat) : Statement (.syncToFrameStart t) := rfl
theorem receiveFrame (t : Nat) : Statement (.receiveFrame t) := rfl
theorem drain : Statement .drain := rfl
theorem sendFrame (f : List Byte) : Statement (.sendFrame f) := rfl
theorem getInitData : Statement .getInitData := ⟨_, rfl⟩
theorem getCapabilities : Statement .getCapabilities := ⟨_, rfl⟩
theorem softReset : Statement .softReset := ⟨_, rfl⟩
theorem getProtocolVersion (a : List Byte) : Statement (.getProtocolVersion a) := ⟨_, rfl⟩
theorem getLibraryVersion : Statement .getLibraryVersion := ⟨_, rfl⟩
theorem getHomeNodeId : Statement .getHomeNodeId := ⟨_, rfl⟩
theorem nvmGetManufacturerId : Statement .nvmGetManufacturerId := ⟨_, rfl⟩
theorem nvmExtRead (a : Addr24) (x : Byte) (y : Byte) : Statement (.nvmExtRead a x y) := ⟨_, rfl⟩
theorem nvmExtWriteRange (a : Addr24) (r : List Byte) : Statement (.nvmExtWriteRange a r) := ⟨_, rfl⟩
theorem nvmExtWriteByte (a : Addr24) (v : Byte) : Statement (.nvmExtWriteByte a v) := ⟨_, rfl⟩
theorem factoryReset : Statement .factoryReset := ⟨_, rfl⟩
theorem addNode (m : Byte) (o : Byte) : Statement (.addNode m o) := ⟨_, rfl⟩
theorem removeNode (m : Byte) (o : Byte) : Statement (.removeNode m o) := ⟨_, rfl⟩
theorem fwUpdateNvm (c : Byte) (a : List Byte) : Statement (.fwUpdateNvm c a) := ⟨_, rfl⟩

end TableMatch

end Sys2Proof.Laws
end

