-- ==== Sys2Proof/Laws/Transport.lean ====
section
/-! SUPPORT. Everything a step of Transport can do, said once; and what a unit's arrival does. -/

namespace Sys2Proof.Machine

/-- What a step of Transport can do: a read that gets a byte, a read that times out, or the step of one of the three phases
that do not read (R27, R53). -/
theorem transportStep_some {s t : State} (h : transportStep s = some t) :
    (s.phase.reads = true ∧ ∃ b q, s.rxq = b :: q ∧ t = react b (rxTake b q s)) ∨
    (s.phase.reads = true ∧ s.rxq = [] ∧ expired s = true ∧ t = onTimeout (rxNone s)) ∨
    (s.phase = .sendStart ∧ t = startSend s) ∨
    (s.phase = .sendBackoff ∧ expired s = true ∧ t = resumeSend s) ∨
    (s.phase = .recvAck ∧ t = finishReceive s) := by
  have read (hr : s.phase.reads = true) (h : readStep s = some t) :
      (s.phase.reads = true ∧ ∃ b q, s.rxq = b :: q ∧ t = react b (rxTake b q s)) ∨
      (s.phase.reads = true ∧ s.rxq = [] ∧ expired s = true ∧ t = onTimeout (rxNone s)) := by
    unfold readStep at h
    split at h
    · exact .inl ⟨hr, _, _, ‹_›, (Option.some.inj h).symm⟩
    · split at h
      · exact .inr ⟨hr, ‹_›, ‹_›, (Option.some.inj h).symm⟩
      · exact nomatch h
  unfold transportStep at h
  split at h
  · exact nomatch h
  · exact .inr (.inr (.inl ⟨‹_›, (Option.some.inj h).symm⟩))
  · split at h
    · exact .inr (.inr (.inr (.inl ⟨‹_›, ‹_›, (Option.some.inj h).symm⟩)))
    · exact nomatch h
  · exact .inr (.inr (.inr (.inr ⟨‹_›, (Option.some.inj h).symm⟩)))
  all_goals
    rename_i hp
    rcases read (by rw [hp]; rfl) h with h | h
    · exact .inl h
    · exact .inr (.inl h)

/-- A read of a queued byte, in a phase that reads. -/
theorem transportStep_read {s : State} (hr : s.phase.reads = true) {b : Byte} {q : List Byte} (hq : s.rxq = b :: q) :
    transportStep s = some (react b (rxTake b q s)) := by
  unfold Phase.reads at hr
  unfold transportStep
  split at hr <;> simp_all [readStep]

/-- A read that times out. -/
theorem transportStep_timeout {s : State} (hr : s.phase.reads = true) (hq : s.rxq = []) (he : expired s = true) :
    transportStep s = some (onTimeout (rxNone s)) := by
  unfold Phase.reads at hr
  unfold transportStep
  split at hr <;> simp_all [readStep]

/-! ### What a byte or a timeout does, by phase (R140, R162) -/

/-- What a byte can do: it is dropped, kept as LEN or as a body byte, it moves the receive on, it starts the back-off, or it
ends the operation with one outcome (R134 to R136, R154, R156, R158, R159). -/
theorem react_cases (b : Byte) (s : State) :
    ((s.phase = .syncOnly ∨ s.phase = .recvSync) ∧ b ≠ Config.sof ∧ react b s = s) ∨
    (s.phase = .recvSync ∧ b = Config.sof ∧
      react b s = { s with byteDeadline := bodyDeadline s, phase := .recvLen }) ∨
    (s.phase = .recvLen ∧ follow s.par.lenBias b = 0 ∧
      react b s = { s with rxLen := b, rxBuf := [], phase := .recvAck }) ∨
    (s.phase = .recvLen ∧ follow s.par.lenBias b ≠ 0 ∧
      react b s = { s with rxLen := b, rxBuf := [], byteDeadline := bodyDeadline s, phase := .recvBody }) ∨
    (s.phase = .recvBody ∧ s.rxBuf.length + 1 = follow s.par.lenBias s.rxLen ∧
      react b s = { s with rxBuf := s.rxBuf ++ [b], phase := .recvAck }) ∨
    (s.phase = .recvBody ∧ s.rxBuf.length + 1 ≠ follow s.par.lenBias s.rxLen ∧
      react b s = { s with rxBuf := s.rxBuf ++ [b], byteDeadline := bodyDeadline s }) ∨
    (s.phase = .sendWait1 ∧ b ≠ Config.ack ∧ react b s = { armBackoff (txAck s) with phase := .sendBackoff }) ∨
    (s.phase.reads = true ∧ s.phase ≠ .recvSync ∧ s.phase ≠ .recvLen ∧ s.phase ≠ .recvBody ∧
      ∃ r, react b s = finishOp r s) ∨
    (s.phase.reads = false ∧ react b s = s) := by
  unfold react
  split <;> rename_i hp
  · by_cases hb : b = Config.sof <;> simp [hp, hb, onSyncOnly, Phase.reads] <;> exact ⟨_, rfl⟩
  · by_cases hb : b = Config.sof <;> simp [hp, hb, onRecvSync, Phase.reads]
  · by_cases hb : follow s.par.lenBias b = 0 <;> simp [hp, hb, onRecvLen, Phase.reads]
  · by_cases hb : s.rxBuf.length + 1 = follow s.par.lenBias s.rxLen <;> simp [hp, hb, onRecvBody, Phase.reads]
  · by_cases hb : b = Config.ack <;> simp [hp, hb, onSendWait1, Phase.reads] <;> exact ⟨_, rfl⟩
  · by_cases hb : b = Config.ack <;> simp [hp, hb, onSendWait2, Phase.reads] <;> exact ⟨_, rfl⟩
  · by_cases hb : b = Config.ack <;> simp [hp, hb, onSendWait2, Phase.reads] <;> exact ⟨_, rfl⟩
  all_goals simp [hp, Phase.reads]

/-- What a timeout can do: resend after the first handshake wait (R155), drop a partial body and end the operation (R136), or
end it with no other write (R135, R232, R234). -/
theorem onTimeout_cases (s : State) (h : s.phase.reads = true) :
    (s.phase = .sendWait1 ∧ onTimeout s = onSendTimeout s) ∨
    (s.phase = .recvBody ∧ onTimeout s = finishOp (.err .frameBodyTimeout []) { s with rxBuf := [] }) ∨
    (s.phase ≠ .sendWait1 ∧ s.phase ≠ .recvBody ∧ ∃ k, onTimeout s = finishOp (.err k []) s) := by
  unfold onTimeout
  split <;> rename_i hp <;>
    simp_all [Phase.reads, syncTimeout, lenTimeout, bodyTimeout, sendFailed] <;> exact ⟨_, rfl⟩

/-! ### The arrival of a unit -/

theorem readQueued_of_not_reads {s : State} (h : s.phase.reads = false) (n : Nat) : readQueued n s = s := by
  cases n <;> simp [readQueued, h]

theorem receiveUnit_of_room {bs : List Byte} {s : State} (h : roomFor bs.length s = true) :
    receiveUnit bs s = .next (readQueued bs.length { s with rxq := s.rxq ++ bs }) := by
  simp [receiveUnit, deliver, h, andThen]

/-- What a unit's arrival can do: the append, then reads (R51, R89). -/
theorem receiveUnit_next {bs : List Byte} {s t : State} (h : receiveUnit bs s = .next t) :
    roomFor bs.length s = true ∧ t = readQueued bs.length { s with rxq := s.rxq ++ bs } := by
  by_cases hr : roomFor bs.length s = true
  · rw [receiveUnit_of_room hr] at h
    exact ⟨hr, (Host.Outcome.next.inj h).symm⟩
  · simp [receiveUnit, deliver, hr, andThen] at h

/-- A relation that holds of every read of a byte, of no read, and of two in a row holds of a unit's reads. -/
theorem readQueued_rel {R : State → State → Prop} (refl : ∀ s, R s s) (trans : ∀ s t u, R s t → R t u → R s u)
    (read : ∀ b q s, s.phase.reads = true → s.rxq = b :: q → R s (react b (rxTake b q s))) :
    ∀ n s, R s (readQueued n s) := by
  intro n
  induction n with
  | zero => exact refl
  | succ n ih =>
    intro s
    unfold readQueued
    split
    · split
      · exact refl s
      · exact trans _ _ _ (read _ _ s ‹_› ‹_›) (ih _)
    · exact refl s

/-- A complete body that arrives while a body is read is read whole (R136). -/
theorem readQueued_body : ∀ (bs q : List Byte) (s : State), s.phase = .recvBody → bs ≠ [] → s.rxq = bs ++ q →
    s.rxBuf.length + bs.length = follow s.par.lenBias s.rxLen → s.byteDeadline = bodyDeadline s →
    readQueued bs.length s =
      { s with phase := .recvAck, rxq := q, rxBuf := s.rxBuf ++ bs, events := s.events ++ bs.map .read } := by
  intro bs q
  induction bs with
  | nil => intro s _ h; exact absurd rfl h
  | cons b bs ih =>
    intro s hp _ hq hl hd
    simp only [List.length_cons, readQueued, hp, Phase.reads, if_true, hq, react, rxTake, List.cons_append]
    rcases bs with _ | ⟨c, cs⟩
    · simp only [List.length_cons, List.length_nil, Nat.zero_add] at hl
      simp [readQueued, onRecvBody, hl]
    · simp only [List.length_cons] at hl
      rw [onRecvBody, if_neg (by simp only; omega), ih]
      · simp only [bodyDeadline] at hd
        simp [bodyDeadline, hd]
      · rfl
      · simp
      · simp
      · simp only [List.length_append, List.length_cons, List.length_nil]; omega
      · simp [bodyDeadline]

end Sys2Proof.Machine
end

