-- ==== Sys2Proof/Laws/Step.lean ====
section
/-! SUPPORT. What a step of the whole system can do, said once: one act, from a short list, between changes of the schedule, the
clock and the count of free values only. -/

namespace Sys2Proof.Machine

/-- A step runs the next move of the schedule, or the default one when there is none. -/
theorem step_cases {s t : State} (h : step s = .next t) :
    (s.sched = [] ∧ t = autoStep s) ∨
      ∃ m rest, s.sched = m :: rest ∧ runMove m { s with sched := rest } = .next t := by
  unfold step scheduleStep at h
  split at h
  · exact .inl ⟨‹_›, (Host.Outcome.next.inj h).symm⟩
  · exact .inr ⟨_, _, ‹_›, h⟩

theorem step_of_sched {s : State} {m : Move} {rest : List Move} (h : s.sched = m :: rest) :
    step s = runMove m { s with sched := rest } := by
  simp [step, scheduleStep, h]

/-- A move of Transport's. -/
theorem step_transport {s : State} {rest : List Move} (h : s.sched = .transport :: rest) :
    step s = .next ((transportStep { s with sched := rest }).getD { s with sched := rest }) := by
  rw [step_of_sched h]
  rfl

/-- A move of the host's. -/
theorem step_host {s : State} {rest : List Move} (h : s.sched = .host :: rest) :
    step s = .next ((hostStep { s with sched := rest }).getD { s with sched := rest }) := by
  rw [step_of_sched h]
  rfl

/-! ### The host -/

/-- What a step of the host's can do: over an idle block it goes on to the reply, or resolves (R181). -/
theorem hostStep_some {s t : State} (h : hostStep s = some t) :
    s.phase = .idle ∧ ∃ w r, s.exch = some ⟨w, some r⟩ ∧
      ((∃ n, channelNext w r = .receive n ∧ t = awaitFrame .reply n s) ∨
        ∃ r', channelNext w r = .resolved r' ∧ t = resolve r' s) := by
  unfold hostStep at h
  split at h
  · rename_i w r hp he
    refine ⟨hp, w, r, he, ?_⟩
    split at h
    · exact .inl ⟨_, ‹_›, (Option.some.inj h).symm⟩
    · exact .inr ⟨_, ‹_›, (Option.some.inj h).symm⟩
  · exact nomatch h

/-- What one act of a host operation can do. -/
theorem perform_cases (j : Job) (a : HostAct) (s : State) :
    (∃ p e n, a = .call p e n ∧ p.length ≤ maxPayload s.par.lenBias ∧
      perform j a s = beginSend (frameBytes (lenByte s.par.lenBias p.length) Config.typeRequest p
          (frameChecksum s.par.lenBias Config.typeRequest p))
        { s with job := some j, exch := some { wait := .handshake e n, got := none } }) ∨
    (∃ n, a = .await n ∧ perform j a s = awaitFrame .callback n { s with job := some j }) ∨
    (∃ r, ((∃ p e n, a = .call p e n ∧ maxPayload s.par.lenBias < p.length ∧ r = callRefused s.par j) ∨ a = .done r) ∧
      perform j a s = jobDone r s) := by
  unfold perform
  split
  · rename_i p e n
    by_cases hp : p.length ≤ maxPayload s.par.lenBias
    · exact .inl ⟨p, e, n, rfl, hp, by simp [sendCommand, encodeFrame_of_le hp]⟩
    · refine .inr (.inr ⟨_, .inl ⟨p, e, n, rfl, Nat.not_le.1 hp, rfl⟩, ?_⟩)
      simp [sendCommand, encodeFrame_of_lt (Nat.not_le.1 hp)]
  · exact .inr (.inl ⟨_, rfl, rfl⟩)
  · exact .inr (.inr ⟨_, .inr rfl, rfl⟩)

/-! ### Time -/

/-- Time passes freely where no `RxGet` on an empty queue bounds it (R32). -/
theorem passTime_free {s : State} (h : timeBound s = none) (ms : Nat) : passTime ms s = { s with now := s.now + ms } := by
  have he : (s.phase.reads && s.rxq.isEmpty && expired s) = false := by
    by_cases hc : (s.phase.reads && s.rxq.isEmpty) = true
    · rw [timeBound, if_pos hc] at h
      simp [expired, h]
    · simp [hc]
  simp [passTime, he, timeLeft, advance, h]

/-- Time passes up to the deadline of such a wait, and the rest of the advance stays to come (R53). -/
theorem passTime_bound {s : State} {d : Nat} (hr : s.phase.reads = true) (hq : s.rxq = []) (hd : deadlineOf s = some d)
    (hn : s.now < d) (ms : Nat) :
    passTime ms s = if s.now + ms ≤ d then { s with now := s.now + ms }
      else { s with now := d, sched := .time (s.now + ms - d) :: s.sched } := by
  have he : expired s = false := by simp [expired, hd, hn]
  have hb : timeBound s = some d := by simp [timeBound, hr, hq, hd]
  by_cases hm : s.now + ms ≤ d
  · simp [passTime, he, timeLeft, advance, hb, hm]
  · have h1 : max s.now d = d := Nat.max_eq_right (Nat.le_of_lt hn)
    have h2 : s.now + ms - d ≠ 0 := by omega
    simp [passTime, he, timeLeft, advance, hb, hm, h1, h2]

/-- At an expired deadline such a wait ends first, as in a move of Transport's (R53). -/
theorem passTime_expired {s : State} (hr : s.phase.reads = true) (hq : s.rxq = []) (he : expired s = true) (ms : Nat) :
    passTime ms s = onTimeout (rxNone { s with sched := .time ms :: s.sched }) := by
  simp [passTime, hr, hq, he]

/-! ### The acts -/

/-- Only the schedule, the clock (forwards) and the count of free values differ. -/
def Quiet (s t : State) : Prop :=
  ∃ (l : List Move) (n m : Nat), s.now ≤ n ∧ t = { s with sched := l, now := n, fresh := m }

/-- The acts that the steps of all agents are made of, but for the arrival of a unit. -/
inductive Act : State → State → Prop where
  | none (s : State) : Act s s
  | append (s : State) (bs : List Byte) : roomFor bs.length s = true → Act s { s with rxq := s.rxq ++ bs }
  | read (s : State) (b : Byte) (q : List Byte) : s.phase.reads = true → s.rxq = b :: q →
      Act s (react b (rxTake b q s))
  | timeout (s : State) : s.phase.reads = true → s.rxq = [] → expired s = true → Act s (onTimeout (rxNone s))
  | startSend (s : State) : s.phase = .sendStart → Act s (startSend s)
  | resumeSend (s : State) : s.phase = .sendBackoff → expired s = true → Act s (resumeSend s)
  | finishReceive (s : State) : s.phase = .recvAck → Act s (finishReceive s)
  | answer (s : State) (r : OpResult) : Act s (answer r s)
  | beginSend (s : State) (f : List Byte) (e : Option Exchange) (j : Option Job) : s.phase = .idle →
      (j.isSome → e.isSome) → Act s (beginSend f { s with exch := e, job := j })
  | beginSync (s : State) (n : Nat) : s.phase = .idle → Act s (beginSync n s)
  | beginReceive (s : State) (n : Nat) (e : Option Exchange) (j : Option Job) : s.phase = .idle →
      (j.isSome → e.isSome) → Act s (beginReceive n { s with exch := e, job := j })
  | jobDone (s : State) (r : OpResult) : s.phase = .idle → Act s (jobDone r s)

theorem quiet_refl (s : State) : Quiet s s := ⟨s.sched, s.now, s.fresh, Nat.le_refl _, rfl⟩

theorem quiet_sched (s : State) (l : List Move) : Quiet s { s with sched := l } :=
  ⟨l, s.now, s.fresh, Nat.le_refl _, rfl⟩

theorem quiet_advance (ms : Nat) (s : State) : Quiet s (advance ms s) := by
  unfold advance
  split
  · exact ⟨s.sched, _, s.fresh, Nat.le_add_right _ _, rfl⟩
  · split
    · exact ⟨s.sched, _, s.fresh, Nat.le_add_right _ _, rfl⟩
    · exact ⟨s.sched, _, s.fresh, Nat.le_max_left _ _, rfl⟩

theorem quiet_trans {s t u : State} (h : Quiet s t) (h' : Quiet t u) : Quiet s u := by
  obtain ⟨_, _, _, hn, rfl⟩ := h
  obtain ⟨l, n, m, hn', rfl⟩ := h'
  exact ⟨l, n, m, Nat.le_trans hn hn', rfl⟩

theorem act_transport {s t : State} (h : transportStep s = some t) : Act s t := by
  rcases transportStep_some h with ⟨hr, b, q, hq, rfl⟩ | ⟨hr, hq, he, rfl⟩ | ⟨hp, rfl⟩ | ⟨hp, he, rfl⟩ | ⟨hp, rfl⟩
  · exact .read s b q hr hq
  · exact .timeout s hr hq he
  · exact .startSend s hp
  · exact .resumeSend s hp he
  · exact .finishReceive s hp

theorem act_call (p : List Byte) (e : Bool) (n : Nat) (s : State) : Act s (startCall p e n s) := by
  by_cases hs : s.free = true
  · by_cases hp : p.length ≤ maxPayload s.par.lenBias
    · rw [startCall_of_free hs hp]
      exact .beginSend s _ _ s.job ((free_iff s).1 hs).1 (by simp)
    · rw [startCall_of_long (Nat.not_le.1 hp)]
      exact .answer s _
  · rw [startCall_of_not_free (by simpa using hs)]
    exact .answer s _

theorem act_perform (j : Job) (a : HostAct) (s : State) (hp : s.phase = .idle) : Act s (perform j a s) := by
  rcases perform_cases j a s with ⟨p, e, n, -, -, he⟩ | ⟨n, -, he⟩ | ⟨r, -, he⟩ <;> rw [he]
  · exact .beginSend s _ _ (some j) hp (by simp)
  · exact .beginReceive s n _ (some j) hp (by simp)
  · exact .jobDone s r hp

theorem act_host {s t : State} (h : hostStep s = some t) : Act s t := by
  obtain ⟨hp, w, r, -, ⟨n, -, rfl⟩ | ⟨r', -, rfl⟩⟩ := hostStep_some h
  · exact .beginReceive s n _ s.job hp (by simp)
  · unfold resolve
    split
    · exact .jobDone s r' hp
    · exact act_perform _ _ s hp

theorem act_hostOp (op : HostOp) (s : State) : Act s (startHostOp op s) := by
  have job : Act s (if s.free then
      match jobBegin s.par op with
      | some (j, a) => perform j a s
      | none => s
    else refuse s) := by
    split
    · split
      · exact act_perform _ _ s ((free_iff s).1 ‹_›).1
      · exact .none s
    · exact .answer s _
  unfold startHostOp
  split
  · exact act_call _ _ _ s
  · unfold startAwait
    split
    · exact .beginReceive s _ _ s.job ((free_iff s).1 ‹_›).1 (by simp)
    · exact .answer s _
  · exact job

/-- A unit that arrives: the append, then the reads. -/
def Arrives (bs : List Byte) (s t : State) : Prop :=
  roomFor bs.length s = true ∧ t = readQueued bs.length { s with rxq := s.rxq ++ bs }

/-- What a `drain` can do: the step of Transport that begins with it, or a refusal (R151). -/
theorem execDrain_next {s t : State} (h : execDrain s = .next t) :
    (s.phase = .sendStart ∧ t = startSend s) ∨
    (s.phase = .sendBackoff ∧ expired s = true ∧ t = resumeSend s) ∨ t = refuse s := by
  unfold execDrain at h
  split at h
  · exact .inl ⟨‹_›, (Host.Outcome.next.inj h).symm⟩
  · split at h
    · exact .inr (.inl ⟨(‹_› : _ ∧ _).1, (‹_› : _ ∧ _).2, (Host.Outcome.next.inj h).symm⟩)
    · exact .inr (.inr (Host.Outcome.next.inj h).symm)

/-- What an instruction can do. -/
theorem exec_cases {i : Instr} {s t : State} (h : exec i s = .next t) :
    Act s t ∨ ∃ bs, imageOf i = .link bs ∧ Arrives bs s t := by
  cases i
  case sof => exact .inr ⟨_, rfl, receiveUnit_next h⟩
  case ack => exact .inr ⟨_, rfl, receiveUnit_next h⟩
  case nak => exact .inr ⟨_, rfl, receiveUnit_next h⟩
  case can => exact .inr ⟨_, rfl, receiveUnit_next h⟩
  case request => exact .inr ⟨_, rfl, receiveUnit_next h⟩
  case response => exact .inr ⟨_, rfl, receiveUnit_next h⟩
  all_goals first
    | (obtain rfl := Host.Outcome.next.inj h; exact .inl (act_call _ _ _ s))
    | skip
  case checksum =>
    obtain rfl := Host.Outcome.next.inj h
    exact .inl (.answer s _)
  case decode =>
    obtain rfl := Host.Outcome.next.inj h
    exact .inl (.answer s _)
  case encode =>
    simp only [exec, execEncode] at h
    split at h <;> (obtain rfl := Host.Outcome.next.inj h; exact .inl (.answer s _))
  case syncToFrameStart n =>
    obtain rfl := Host.Outcome.next.inj h
    split
    · exact .inl (.beginSync s n ((free_iff s).1 ‹_›).1)
    · exact .inl (.answer s _)
  case receiveFrame n =>
    obtain rfl := Host.Outcome.next.inj h
    split
    · have hs := (free_iff s).1 ‹_›
      exact .inl (.beginReceive s n s.exch s.job hs.1 (by simp [hs.2.2]))
    · exact .inl (.answer s _)
  case drain =>
    rcases execDrain_next h with ⟨hp, rfl⟩ | ⟨hp, he, rfl⟩ | rfl
    · exact .inl (.startSend s hp)
    · exact .inl (.resumeSend s hp he)
    · exact .inl (.answer s _)
  case sendFrame f =>
    obtain rfl := Host.Outcome.next.inj h
    split
    · have hs := (free_iff s).1 ‹_›
      exact .inl (.beginSend s f s.exch s.job hs.1 (by simp [hs.2.2]))
    · exact .inl (.answer s _)

/-- The image is a run of link bytes, or a unit handed over as its constructor. -/
def isUnit (im : Image) : Prop := (∃ bytes, im = .link bytes) ∨ ∃ i bytes, im = .operation i ∧ imageOf i = .link bytes

/-- What the fetch of an image can do. -/
theorem runImage_cases {im : Image} {s t : State} (h : runImage im s = .next t) :
    Act s t ∨ (isUnit im ∧ ∃ bs, Arrives bs s t) := by
  cases im with
  | link bytes =>
    refine .inr ⟨.inl ⟨bytes, rfl⟩, ?_⟩
    unfold runImage at h
    split at h
    · rename_i i hd
      obtain ⟨bs, hb⟩ := decodeLink_ok hd
      cases i <;> first
        | (cases hb; done)
        | exact ⟨_, receiveUnit_next h⟩
    · exact ⟨bytes, receiveUnit_next h⟩
  | command p =>
    refine .inl ?_
    unfold runImage at h
    split at h
    · rename_i i hd
      rcases exec_cases h with h | ⟨bs, hb, -⟩
      · exact h
      · cases p with
        | nil => exact nomatch hd
        | cons op args => rw [decodeOpcode_ok hd] at hb; exact nomatch hb
    · obtain rfl := Host.Outcome.next.inj h
      exact act_call _ _ _ s
  | operation i =>
    rcases exec_cases (i := i) h with h | ⟨bs, hb, ha⟩
    · exact .inl h
    · exact .inr ⟨.inr ⟨i, bs, rfl, hb⟩, bs, ha⟩

theorem act_pass (ms : Nat) (s : State) :
    (∃ l, Act { s with sched := l } (passTime ms s)) ∨ Quiet s (passTime ms s) := by
  unfold passTime
  split
  · rename_i hc
    simp only [Bool.and_eq_true, List.isEmpty_iff] at hc
    exact .inl ⟨_, .timeout _ hc.1.1 hc.1.2 hc.2⟩
  · split
    · exact .inr (quiet_advance ms s)
    · exact .inr (quiet_trans (quiet_advance ms s) (quiet_sched _ _))

theorem act_auto (s : State) : Act s (autoStep s) ∨ Quiet s (autoStep s) := by
  unfold autoStep
  split
  · exact .inl (act_transport ‹_›)
  · split
    · exact .inl (act_host ‹_›)
    · exact .inr (quiet_trans ⟨s.sched, s.now, s.fresh + 1, Nat.le_refl _, rfl⟩ (quiet_advance _ _))

/-- Everything a step can do: either only the schedule, the clock and the count of free values change; or, once the move is off
the schedule, one act happens, or a unit that was next in the schedule arrives. -/
theorem step_act {s t : State} (h : step s = .next t) : Quiet s t ∨ ∃ l,
    (Act { s with sched := l } t ∨
      ((∃ im rest, s.sched = .fetch im :: rest ∧ isUnit im) ∧ ∃ bs, Arrives bs { s with sched := l } t)) := by
  rcases step_cases h with ⟨-, rfl⟩ | ⟨m, rest, hs, hm⟩
  · rcases act_auto s with h | h
    · exact .inr ⟨s.sched, .inl h⟩
    · exact .inl h
  · cases m with
    | transport =>
      obtain rfl := Host.Outcome.next.inj hm
      cases ht : transportStep { s with sched := rest } with
      | none => exact .inl (quiet_sched s rest)
      | some u => exact .inr ⟨rest, .inl (act_transport ht)⟩
    | time ms =>
      obtain rfl := Host.Outcome.next.inj hm
      rcases act_pass ms { s with sched := rest } with ⟨l, ha⟩ | hu
      · exact .inr ⟨l, .inl ha⟩
      · exact .inl (quiet_trans (quiet_sched s rest) hu)
    | peer bs =>
      obtain ⟨hr, rfl⟩ := deliver_next hm
      exact .inr ⟨rest, .inl (.append _ bs hr)⟩
    | host =>
      obtain rfl := Host.Outcome.next.inj hm
      cases ht : hostStep { s with sched := rest } with
      | none => exact .inl (quiet_sched s rest)
      | some u => exact .inr ⟨rest, .inl (act_host ht)⟩
    | start op =>
      obtain rfl := Host.Outcome.next.inj hm
      exact .inr ⟨rest, .inl (act_hostOp op _)⟩
    | fetch im =>
      refine .inr ⟨rest, ?_⟩
      rcases runImage_cases hm with ha | ⟨hi, ha⟩
      · exact .inl ha
      · exact .inr ⟨⟨im, rest, hs, hi⟩, ha⟩

/-! ### Relations that every step respects -/

/-- A relation that is kept from step to step and that each act respects, with a unit's arrival taken apart. -/
structure RespectsActs (R : State → State → Prop) : Prop where
  trans : ∀ s t u, R s t → R t u → R s u
  quiet : ∀ s t, Quiet s t → R s t
  append : ∀ s bs, roomFor bs.length s = true → R s { s with rxq := s.rxq ++ bs }
  read : ∀ s b q, s.phase.reads = true → s.rxq = b :: q → R s (react b (rxTake b q s))
  timeout : ∀ s, s.phase.reads = true → s.rxq = [] → expired s = true → R s (onTimeout (rxNone s))
  startSend : ∀ s, s.phase = .sendStart → R s (startSend s)
  resumeSend : ∀ s, s.phase = .sendBackoff → expired s = true → R s (resumeSend s)
  finishReceive : ∀ s, s.phase = .recvAck → R s (finishReceive s)
  answer : ∀ s r, R s (answer r s)
  beginSend : ∀ s f e j, s.phase = .idle → (j.isSome → e.isSome) →
    R s (beginSend f { s with exch := e, job := j })
  beginSync : ∀ s n, s.phase = .idle → R s (beginSync n s)
  beginReceive : ∀ s n e j, s.phase = .idle → (j.isSome → e.isSome) →
    R s (beginReceive n { s with exch := e, job := j })
  jobDone : ∀ s r, s.phase = .idle → R s (jobDone r s)

/-- Every step of every agent respects such a relation. -/
theorem step_respects {R : State → State → Prop} (h : RespectsActs R) {s t : State} (ht : step s = .next t) : R s t := by
  rcases step_act ht with hq | ⟨l, ha⟩
  · exact h.quiet _ _ hq
  refine h.trans _ _ _ (h.quiet _ _ (quiet_sched s l)) ?_
  rcases ha with ha | ⟨-, bs, hr, rfl⟩
  · cases ha with
    | none => exact h.quiet _ _ (quiet_refl _)
    | append bs hr => exact h.append _ bs hr
    | read b q hr hq => exact h.read _ b q hr hq
    | timeout hr hq he => exact h.timeout _ hr hq he
    | startSend hp => exact h.startSend _ hp
    | resumeSend hp he => exact h.resumeSend _ hp he
    | finishReceive hp => exact h.finishReceive _ hp
    | answer r => exact h.answer _ r
    | beginSend f e j hp hj => exact h.beginSend _ f e j hp hj
    | beginSync n hp => exact h.beginSync _ n hp
    | beginReceive n e j hp hj => exact h.beginReceive _ n e j hp hj
    | jobDone r hp => exact h.jobDone _ r hp
  · exact h.trans _ _ _ (h.append _ bs hr) (readQueued_rel (fun s => h.quiet _ _ (quiet_refl s)) h.trans
      (fun b q s hr hq => h.read s b q hr hq) _ _)

end Sys2Proof.Machine
end

