-- ==== Sys2Proof/Laws/Run.lean ====
section
/-! SUPPORT. Runs of several steps: one step at a time, and a unit's arrival as a run of Transport's reads. -/

namespace Sys2Proof.Machine

open Safety

theorem run_zero (s : State) : run 0 s = .next s := rfl

/-- A run goes on after its first step. -/
theorem run_succ {s t : State} (h : step s = .next t) (n : Nat) : run (n + 1) s = run n t := by
  simp only [run, h, andThen]

/-- A run goes on after a shorter run. -/
theorem run_add {t : State} (m : Nat) : ∀ (n : Nat) {s : State}, run n s = .next t → run (n + m) s = run m t := by
  intro n
  induction n with
  | zero =>
    intro s h
    obtain rfl := Host.Outcome.next.inj h
    rw [Nat.zero_add]
  | succ n ih =>
    intro s h
    rw [Nat.add_right_comm]
    cases hs : step s with
    | next u =>
      rw [run_succ hs] at h ⊢
      exact ih h
    | fault e => simp [run, hs, andThen] at h
    | refused e => simp [run, hs, andThen] at h

/-- One move of Transport's that reads a byte. -/
theorem step_read {s : State} {rest : List Move} {b : Byte} {q : List Byte} (h : s.sched = .transport :: rest)
    (hr : s.phase.reads = true) (hq : s.rxq = b :: q) :
    step s = .next (react b (rxTake b q { s with sched := rest })) := by
  rw [step_transport h, transportStep_read (s := { s with sched := rest }) hr hq]
  rfl

/-! ### A byte read leaves the schedule and the rest of the queue alone -/

theorem react_withSched (b : Byte) (s : State) (l : List Move) :
    react b { s with sched := l } = { react b s with sched := l } := by
  obtain ⟨ph, _⟩ := s
  cases ph <;>
    simp only [react, onSyncOnly, onRecvSync, onRecvLen, onRecvBody, onSendWait1, onSendWait2] <;>
    (try split) <;> rfl

theorem react_sched (b : Byte) (s : State) : (react b s).sched = s.sched := by
  rw [show s = { s with sched := s.sched } from rfl, react_withSched]

theorem react_rxq (b : Byte) (s : State) : (react b s).rxq = s.rxq := by
  obtain ⟨ph, _⟩ := s
  cases ph <;>
    simp only [react, onSyncOnly, onRecvSync, onRecvLen, onRecvBody, onSendWait1, onSendWait2] <;>
    (try split) <;> rfl

/-- The reads of a unit's arrival are a run of that many moves of Transport's (R51, R89). -/
theorem run_readQueued : ∀ (k : Nat) (s : State), k ≤ s.rxq.length →
    ∃ n, n ≤ k ∧ ((readQueued k s).phase.reads = true → n = k) ∧
      run n { s with sched := List.replicate n .transport ++ s.sched } = .next (readQueued k s) := by
  intro k
  induction k with
  | zero => intro s _; exact ⟨0, Nat.le_refl _, fun _ => rfl, rfl⟩
  | succ k ih =>
    intro s hl
    by_cases hr : s.phase.reads = true
    · cases hq : s.rxq with
      | nil => simp [hq] at hl
      | cons b q =>
        obtain ⟨n, h1, h2, h3⟩ := ih (react b (rxTake b q s)) (by
          simp only [hq, List.length_cons] at hl
          rw [react_rxq]
          exact Nat.le_of_succ_le_succ hl)
        have hs : readQueued (k + 1) s = readQueued k (react b (rxTake b q s)) := by
          simp [readQueued, hr, hq]
        refine ⟨n + 1, Nat.succ_le_succ h1, fun h => by rw [h2 (hs ▸ h)], ?_⟩
        rw [hs, ← h3, react_sched, ← hq]
        rw [run_succ (s := { s with sched := List.replicate (n + 1) .transport ++ s.sched })
          (step_read (rest := List.replicate n .transport ++ s.sched) (b := b) (q := q) rfl hr hq)]
        exact congrArg (run n)
          (react_withSched b (rxTake b q s) (List.replicate n Move.transport ++ s.sched))
    · have hs : readQueued (k + 1) s = s := readQueued_of_not_reads (by simpa using hr) _
      exact ⟨0, Nat.zero_le _, fun h => absurd (hs ▸ h) hr, by rw [hs]; rfl⟩

end Sys2Proof.Machine
end

