-- ==== Sys2Proof/Laws/State.lean ====
section
/-! SUPPORT. What each shared operation does to each field of the state, one lemma a field, true by definition. -/

namespace Sys2Proof.Machine

/-! ### txPut -/

@[simp] theorem txPut_phase (bs : List Byte) (s : State) : (txPut bs s).phase = s.phase := rfl
@[simp] theorem txPut_pend (bs : List Byte) (s : State) : (txPut bs s).pend = s.pend := rfl
@[simp] theorem txPut_syncDeadline (bs : List Byte) (s : State) : (txPut bs s).syncDeadline = s.syncDeadline := rfl
@[simp] theorem txPut_byteDeadline (bs : List Byte) (s : State) : (txPut bs s).byteDeadline = s.byteDeadline := rfl
@[simp] theorem txPut_rxLen (bs : List Byte) (s : State) : (txPut bs s).rxLen = s.rxLen := rfl
@[simp] theorem txPut_rxBuf (bs : List Byte) (s : State) : (txPut bs s).rxBuf = s.rxBuf := rfl
@[simp] theorem txPut_chkOk (bs : List Byte) (s : State) : (txPut bs s).chkOk = s.chkOk := rfl
@[simp] theorem txPut_hadStale (bs : List Byte) (s : State) : (txPut bs s).hadStale = s.hadStale := rfl
@[simp] theorem txPut_rxq (bs : List Byte) (s : State) : (txPut bs s).rxq = s.rxq := rfl
@[simp] theorem txPut_txlog (bs : List Byte) (s : State) : (txPut bs s).txlog = s.txlog ++ bs := rfl
@[simp] theorem txPut_now (bs : List Byte) (s : State) : (txPut bs s).now = s.now := rfl
@[simp] theorem txPut_events (bs : List Byte) (s : State) : (txPut bs s).events = s.events ++ [.write bs] := rfl
@[simp] theorem txPut_outlog (bs : List Byte) (s : State) : (txPut bs s).outlog = s.outlog := rfl
@[simp] theorem txPut_exch (bs : List Byte) (s : State) : (txPut bs s).exch = s.exch := rfl
@[simp] theorem txPut_job (bs : List Byte) (s : State) : (txPut bs s).job = s.job := rfl
@[simp] theorem txPut_sched (bs : List Byte) (s : State) : (txPut bs s).sched = s.sched := rfl
@[simp] theorem txPut_fresh (bs : List Byte) (s : State) : (txPut bs s).fresh = s.fresh := rfl
@[simp] theorem txPut_par (bs : List Byte) (s : State) : (txPut bs s).par = s.par := rfl

/-! ### txAck -/

@[simp] theorem txAck_phase (s : State) : (txAck s).phase = s.phase := rfl
@[simp] theorem txAck_pend (s : State) : (txAck s).pend = s.pend := rfl
@[simp] theorem txAck_syncDeadline (s : State) : (txAck s).syncDeadline = s.syncDeadline := rfl
@[simp] theorem txAck_byteDeadline (s : State) : (txAck s).byteDeadline = s.byteDeadline := rfl
@[simp] theorem txAck_rxLen (s : State) : (txAck s).rxLen = s.rxLen := rfl
@[simp] theorem txAck_rxBuf (s : State) : (txAck s).rxBuf = s.rxBuf := rfl
@[simp] theorem txAck_chkOk (s : State) : (txAck s).chkOk = s.chkOk := rfl
@[simp] theorem txAck_hadStale (s : State) : (txAck s).hadStale = s.hadStale := rfl
@[simp] theorem txAck_rxq (s : State) : (txAck s).rxq = s.rxq := rfl
@[simp] theorem txAck_txlog (s : State) : (txAck s).txlog = s.txlog ++ [Config.ack] := rfl
@[simp] theorem txAck_now (s : State) : (txAck s).now = s.now := rfl
@[simp] theorem txAck_events (s : State) : (txAck s).events = s.events ++ [.write [Config.ack]] := rfl
@[simp] theorem txAck_outlog (s : State) : (txAck s).outlog = s.outlog := rfl
@[simp] theorem txAck_exch (s : State) : (txAck s).exch = s.exch := rfl
@[simp] theorem txAck_job (s : State) : (txAck s).job = s.job := rfl
@[simp] theorem txAck_sched (s : State) : (txAck s).sched = s.sched := rfl
@[simp] theorem txAck_fresh (s : State) : (txAck s).fresh = s.fresh := rfl
@[simp] theorem txAck_par (s : State) : (txAck s).par = s.par := rfl

/-! ### rxTake -/

@[simp] theorem rxTake_phase (b : Byte) (rest : List Byte) (s : State) : (rxTake b rest s).phase = s.phase := rfl
@[simp] theorem rxTake_pend (b : Byte) (rest : List Byte) (s : State) : (rxTake b rest s).pend = s.pend := rfl
@[simp] theorem rxTake_syncDeadline (b : Byte) (rest : List Byte) (s : State) :
    (rxTake b rest s).syncDeadline = s.syncDeadline := rfl
@[simp] theorem rxTake_byteDeadline (b : Byte) (rest : List Byte) (s : State) :
    (rxTake b rest s).byteDeadline = s.byteDeadline := rfl
@[simp] theorem rxTake_rxLen (b : Byte) (rest : List Byte) (s : State) : (rxTake b rest s).rxLen = s.rxLen := rfl
@[simp] theorem rxTake_rxBuf (b : Byte) (rest : List Byte) (s : State) : (rxTake b rest s).rxBuf = s.rxBuf := rfl
@[simp] theorem rxTake_chkOk (b : Byte) (rest : List Byte) (s : State) : (rxTake b rest s).chkOk = s.chkOk := rfl
@[simp] theorem rxTake_hadStale (b : Byte) (rest : List Byte) (s : State) :
    (rxTake b rest s).hadStale = s.hadStale := rfl
@[simp] theorem rxTake_rxq (b : Byte) (rest : List Byte) (s : State) : (rxTake b rest s).rxq = rest := rfl
@[simp] theorem rxTake_txlog (b : Byte) (rest : List Byte) (s : State) : (rxTake b rest s).txlog = s.txlog := rfl
@[simp] theorem rxTake_now (b : Byte) (rest : List Byte) (s : State) : (rxTake b rest s).now = s.now := rfl
@[simp] theorem rxTake_events (b : Byte) (rest : List Byte) (s : State) :
    (rxTake b rest s).events = s.events ++ [.read b] := rfl
@[simp] theorem rxTake_outlog (b : Byte) (rest : List Byte) (s : State) : (rxTake b rest s).outlog = s.outlog := rfl
@[simp] theorem rxTake_exch (b : Byte) (rest : List Byte) (s : State) : (rxTake b rest s).exch = s.exch := rfl
@[simp] theorem rxTake_job (b : Byte) (rest : List Byte) (s : State) : (rxTake b rest s).job = s.job := rfl
@[simp] theorem rxTake_sched (b : Byte) (rest : List Byte) (s : State) : (rxTake b rest s).sched = s.sched := rfl
@[simp] theorem rxTake_fresh (b : Byte) (rest : List Byte) (s : State) : (rxTake b rest s).fresh = s.fresh := rfl
@[simp] theorem rxTake_par (b : Byte) (rest : List Byte) (s : State) : (rxTake b rest s).par = s.par := rfl

/-! ### rxNone -/

@[simp] theorem rxNone_phase (s : State) : (rxNone s).phase = s.phase := rfl
@[simp] theorem rxNone_pend (s : State) : (rxNone s).pend = s.pend := rfl
@[simp] theorem rxNone_syncDeadline (s : State) : (rxNone s).syncDeadline = s.syncDeadline := rfl
@[simp] theorem rxNone_byteDeadline (s : State) : (rxNone s).byteDeadline = s.byteDeadline := rfl
@[simp] theorem rxNone_rxLen (s : State) : (rxNone s).rxLen = s.rxLen := rfl
@[simp] theorem rxNone_rxBuf (s : State) : (rxNone s).rxBuf = s.rxBuf := rfl
@[simp] theorem rxNone_chkOk (s : State) : (rxNone s).chkOk = s.chkOk := rfl
@[simp] theorem rxNone_hadStale (s : State) : (rxNone s).hadStale = s.hadStale := rfl
@[simp] theorem rxNone_rxq (s : State) : (rxNone s).rxq = s.rxq := rfl
@[simp] theorem rxNone_txlog (s : State) : (rxNone s).txlog = s.txlog := rfl
@[simp] theorem rxNone_now (s : State) : (rxNone s).now = s.now := rfl
@[simp] theorem rxNone_events (s : State) : (rxNone s).events = s.events ++ [.timeout] := rfl
@[simp] theorem rxNone_outlog (s : State) : (rxNone s).outlog = s.outlog := rfl
@[simp] theorem rxNone_exch (s : State) : (rxNone s).exch = s.exch := rfl
@[simp] theorem rxNone_job (s : State) : (rxNone s).job = s.job := rfl
@[simp] theorem rxNone_sched (s : State) : (rxNone s).sched = s.sched := rfl
@[simp] theorem rxNone_fresh (s : State) : (rxNone s).fresh = s.fresh := rfl
@[simp] theorem rxNone_par (s : State) : (rxNone s).par = s.par := rfl

/-! ### rxDrain -/

@[simp] theorem rxDrain_phase (s : State) : (rxDrain s).phase = s.phase := rfl
@[simp] theorem rxDrain_pend (s : State) : (rxDrain s).pend = s.pend := rfl
@[simp] theorem rxDrain_syncDeadline (s : State) : (rxDrain s).syncDeadline = s.syncDeadline := rfl
@[simp] theorem rxDrain_byteDeadline (s : State) : (rxDrain s).byteDeadline = s.byteDeadline := rfl
@[simp] theorem rxDrain_rxLen (s : State) : (rxDrain s).rxLen = s.rxLen := rfl
@[simp] theorem rxDrain_rxBuf (s : State) : (rxDrain s).rxBuf = s.rxBuf := rfl
@[simp] theorem rxDrain_chkOk (s : State) : (rxDrain s).chkOk = s.chkOk := rfl
@[simp] theorem rxDrain_hadStale (s : State) : (rxDrain s).hadStale = s.hadStale := rfl
@[simp] theorem rxDrain_rxq (s : State) : (rxDrain s).rxq = [] := rfl
@[simp] theorem rxDrain_txlog (s : State) : (rxDrain s).txlog = s.txlog := rfl
@[simp] theorem rxDrain_now (s : State) : (rxDrain s).now = s.now := rfl
@[simp] theorem rxDrain_events (s : State) : (rxDrain s).events = s.events ++ [.drain s.rxq] := rfl
@[simp] theorem rxDrain_outlog (s : State) : (rxDrain s).outlog = s.outlog := rfl
@[simp] theorem rxDrain_exch (s : State) : (rxDrain s).exch = s.exch := rfl
@[simp] theorem rxDrain_job (s : State) : (rxDrain s).job = s.job := rfl
@[simp] theorem rxDrain_sched (s : State) : (rxDrain s).sched = s.sched := rfl
@[simp] theorem rxDrain_fresh (s : State) : (rxDrain s).fresh = s.fresh := rfl
@[simp] theorem rxDrain_par (s : State) : (rxDrain s).par = s.par := rfl

/-! ### armWait -/

@[simp] theorem armWait_phase (n ms : Nat) (s : State) : (armWait n ms s).phase = s.phase := rfl
@[simp] theorem armWait_pend (n ms : Nat) (s : State) :
    (armWait n ms s).pend = s.pend.map fun p => { p with attempts := n, deadline := s.now + ms } := rfl
@[simp] theorem armWait_syncDeadline (n ms : Nat) (s : State) : (armWait n ms s).syncDeadline = s.syncDeadline := rfl
@[simp] theorem armWait_byteDeadline (n ms : Nat) (s : State) : (armWait n ms s).byteDeadline = s.byteDeadline := rfl
@[simp] theorem armWait_rxLen (n ms : Nat) (s : State) : (armWait n ms s).rxLen = s.rxLen := rfl
@[simp] theorem armWait_rxBuf (n ms : Nat) (s : State) : (armWait n ms s).rxBuf = s.rxBuf := rfl
@[simp] theorem armWait_chkOk (n ms : Nat) (s : State) : (armWait n ms s).chkOk = s.chkOk := rfl
@[simp] theorem armWait_hadStale (n ms : Nat) (s : State) : (armWait n ms s).hadStale = s.hadStale := rfl
@[simp] theorem armWait_rxq (n ms : Nat) (s : State) : (armWait n ms s).rxq = s.rxq := rfl
@[simp] theorem armWait_txlog (n ms : Nat) (s : State) : (armWait n ms s).txlog = s.txlog := rfl
@[simp] theorem armWait_now (n ms : Nat) (s : State) : (armWait n ms s).now = s.now := rfl
@[simp] theorem armWait_events (n ms : Nat) (s : State) : (armWait n ms s).events = s.events := rfl
@[simp] theorem armWait_outlog (n ms : Nat) (s : State) : (armWait n ms s).outlog = s.outlog := rfl
@[simp] theorem armWait_exch (n ms : Nat) (s : State) : (armWait n ms s).exch = s.exch := rfl
@[simp] theorem armWait_job (n ms : Nat) (s : State) : (armWait n ms s).job = s.job := rfl
@[simp] theorem armWait_sched (n ms : Nat) (s : State) : (armWait n ms s).sched = s.sched := rfl
@[simp] theorem armWait_fresh (n ms : Nat) (s : State) : (armWait n ms s).fresh = s.fresh := rfl
@[simp] theorem armWait_par (n ms : Nat) (s : State) : (armWait n ms s).par = s.par := rfl

/-! ### armBackoff -/

@[simp] theorem armBackoff_phase (s : State) : (armBackoff s).phase = s.phase := rfl
@[simp] theorem armBackoff_pend (s : State) :
    (armBackoff s).pend = s.pend.map fun p => { p with deadline := s.now + Config.tBackoff } := rfl
@[simp] theorem armBackoff_syncDeadline (s : State) : (armBackoff s).syncDeadline = s.syncDeadline := rfl
@[simp] theorem armBackoff_byteDeadline (s : State) : (armBackoff s).byteDeadline = s.byteDeadline := rfl
@[simp] theorem armBackoff_rxLen (s : State) : (armBackoff s).rxLen = s.rxLen := rfl
@[simp] theorem armBackoff_rxBuf (s : State) : (armBackoff s).rxBuf = s.rxBuf := rfl
@[simp] theorem armBackoff_chkOk (s : State) : (armBackoff s).chkOk = s.chkOk := rfl
@[simp] theorem armBackoff_hadStale (s : State) : (armBackoff s).hadStale = s.hadStale := rfl
@[simp] theorem armBackoff_rxq (s : State) : (armBackoff s).rxq = s.rxq := rfl
@[simp] theorem armBackoff_txlog (s : State) : (armBackoff s).txlog = s.txlog := rfl
@[simp] theorem armBackoff_now (s : State) : (armBackoff s).now = s.now := rfl
@[simp] theorem armBackoff_events (s : State) : (armBackoff s).events = s.events := rfl
@[simp] theorem armBackoff_outlog (s : State) : (armBackoff s).outlog = s.outlog := rfl
@[simp] theorem armBackoff_exch (s : State) : (armBackoff s).exch = s.exch := rfl
@[simp] theorem armBackoff_job (s : State) : (armBackoff s).job = s.job := rfl
@[simp] theorem armBackoff_sched (s : State) : (armBackoff s).sched = s.sched := rfl
@[simp] theorem armBackoff_fresh (s : State) : (armBackoff s).fresh = s.fresh := rfl
@[simp] theorem armBackoff_par (s : State) : (armBackoff s).par = s.par := rfl

/-! ### finishOp -/

@[simp] theorem finishOp_phase (r : OpResult) (s : State) : (finishOp r s).phase = .idle := rfl
@[simp] theorem finishOp_pend (r : OpResult) (s : State) : (finishOp r s).pend = none := rfl
@[simp] theorem finishOp_syncDeadline (r : OpResult) (s : State) :
    (finishOp r s).syncDeadline = s.syncDeadline := rfl
@[simp] theorem finishOp_byteDeadline (r : OpResult) (s : State) :
    (finishOp r s).byteDeadline = s.byteDeadline := rfl
@[simp] theorem finishOp_rxLen (r : OpResult) (s : State) : (finishOp r s).rxLen = s.rxLen := rfl
@[simp] theorem finishOp_rxBuf (r : OpResult) (s : State) : (finishOp r s).rxBuf = s.rxBuf := rfl
@[simp] theorem finishOp_chkOk (r : OpResult) (s : State) : (finishOp r s).chkOk = s.chkOk := rfl
@[simp] theorem finishOp_hadStale (r : OpResult) (s : State) : (finishOp r s).hadStale = s.hadStale := rfl
@[simp] theorem finishOp_rxq (r : OpResult) (s : State) : (finishOp r s).rxq = s.rxq := rfl
@[simp] theorem finishOp_txlog (r : OpResult) (s : State) : (finishOp r s).txlog = s.txlog := rfl
@[simp] theorem finishOp_now (r : OpResult) (s : State) : (finishOp r s).now = s.now := rfl
@[simp] theorem finishOp_events (r : OpResult) (s : State) : (finishOp r s).events = s.events := rfl
@[simp] theorem finishOp_outlog (r : OpResult) (s : State) : (finishOp r s).outlog = s.outlog ++ [r] := rfl
@[simp] theorem finishOp_exch (r : OpResult) (s : State) :
    (finishOp r s).exch = s.exch.map fun e => { e with got := some r } := rfl
@[simp] theorem finishOp_job (r : OpResult) (s : State) : (finishOp r s).job = s.job := rfl
@[simp] theorem finishOp_sched (r : OpResult) (s : State) : (finishOp r s).sched = s.sched := rfl
@[simp] theorem finishOp_fresh (r : OpResult) (s : State) : (finishOp r s).fresh = s.fresh := rfl
@[simp] theorem finishOp_par (r : OpResult) (s : State) : (finishOp r s).par = s.par := rfl

/-! ### answer -/

@[simp] theorem answer_phase (r : OpResult) (s : State) : (answer r s).phase = s.phase := rfl
@[simp] theorem answer_pend (r : OpResult) (s : State) : (answer r s).pend = s.pend := rfl
@[simp] theorem answer_syncDeadline (r : OpResult) (s : State) : (answer r s).syncDeadline = s.syncDeadline := rfl
@[simp] theorem answer_byteDeadline (r : OpResult) (s : State) : (answer r s).byteDeadline = s.byteDeadline := rfl
@[simp] theorem answer_rxLen (r : OpResult) (s : State) : (answer r s).rxLen = s.rxLen := rfl
@[simp] theorem answer_rxBuf (r : OpResult) (s : State) : (answer r s).rxBuf = s.rxBuf := rfl
@[simp] theorem answer_chkOk (r : OpResult) (s : State) : (answer r s).chkOk = s.chkOk := rfl
@[simp] theorem answer_hadStale (r : OpResult) (s : State) : (answer r s).hadStale = s.hadStale := rfl
@[simp] theorem answer_rxq (r : OpResult) (s : State) : (answer r s).rxq = s.rxq := rfl
@[simp] theorem answer_txlog (r : OpResult) (s : State) : (answer r s).txlog = s.txlog := rfl
@[simp] theorem answer_now (r : OpResult) (s : State) : (answer r s).now = s.now := rfl
@[simp] theorem answer_events (r : OpResult) (s : State) : (answer r s).events = s.events := rfl
@[simp] theorem answer_outlog (r : OpResult) (s : State) : (answer r s).outlog = s.outlog ++ [r] := rfl
@[simp] theorem answer_exch (r : OpResult) (s : State) : (answer r s).exch = s.exch := rfl
@[simp] theorem answer_job (r : OpResult) (s : State) : (answer r s).job = s.job := rfl
@[simp] theorem answer_sched (r : OpResult) (s : State) : (answer r s).sched = s.sched := rfl
@[simp] theorem answer_fresh (r : OpResult) (s : State) : (answer r s).fresh = s.fresh := rfl
@[simp] theorem answer_par (r : OpResult) (s : State) : (answer r s).par = s.par := rfl

/-! ### refuse -/

@[simp] theorem refuse_phase (s : State) : (refuse s).phase = s.phase := rfl
@[simp] theorem refuse_pend (s : State) : (refuse s).pend = s.pend := rfl
@[simp] theorem refuse_syncDeadline (s : State) : (refuse s).syncDeadline = s.syncDeadline := rfl
@[simp] theorem refuse_byteDeadline (s : State) : (refuse s).byteDeadline = s.byteDeadline := rfl
@[simp] theorem refuse_rxLen (s : State) : (refuse s).rxLen = s.rxLen := rfl
@[simp] theorem refuse_rxBuf (s : State) : (refuse s).rxBuf = s.rxBuf := rfl
@[simp] theorem refuse_chkOk (s : State) : (refuse s).chkOk = s.chkOk := rfl
@[simp] theorem refuse_hadStale (s : State) : (refuse s).hadStale = s.hadStale := rfl
@[simp] theorem refuse_rxq (s : State) : (refuse s).rxq = s.rxq := rfl
@[simp] theorem refuse_txlog (s : State) : (refuse s).txlog = s.txlog := rfl
@[simp] theorem refuse_now (s : State) : (refuse s).now = s.now := rfl
@[simp] theorem refuse_events (s : State) : (refuse s).events = s.events := rfl
@[simp] theorem refuse_outlog (s : State) : (refuse s).outlog = s.outlog ++ [.err .refused []] := rfl
@[simp] theorem refuse_exch (s : State) : (refuse s).exch = s.exch := rfl
@[simp] theorem refuse_job (s : State) : (refuse s).job = s.job := rfl
@[simp] theorem refuse_sched (s : State) : (refuse s).sched = s.sched := rfl
@[simp] theorem refuse_fresh (s : State) : (refuse s).fresh = s.fresh := rfl
@[simp] theorem refuse_par (s : State) : (refuse s).par = s.par := rfl

/-! ### beginSend -/

@[simp] theorem beginSend_phase (f : List Byte) (s : State) : (beginSend f s).phase = .sendStart := rfl
@[simp] theorem beginSend_pend (f : List Byte) (s : State) :
    (beginSend f s).pend = some ⟨f, 0, Config.freeTime s.fresh⟩ := rfl
@[simp] theorem beginSend_syncDeadline (f : List Byte) (s : State) :
    (beginSend f s).syncDeadline = s.syncDeadline := rfl
@[simp] theorem beginSend_byteDeadline (f : List Byte) (s : State) :
    (beginSend f s).byteDeadline = s.byteDeadline := rfl
@[simp] theorem beginSend_rxLen (f : List Byte) (s : State) : (beginSend f s).rxLen = s.rxLen := rfl
@[simp] theorem beginSend_rxBuf (f : List Byte) (s : State) : (beginSend f s).rxBuf = s.rxBuf := rfl
@[simp] theorem beginSend_chkOk (f : List Byte) (s : State) : (beginSend f s).chkOk = s.chkOk := rfl
@[simp] theorem beginSend_hadStale (f : List Byte) (s : State) : (beginSend f s).hadStale = s.hadStale := rfl
@[simp] theorem beginSend_rxq (f : List Byte) (s : State) : (beginSend f s).rxq = s.rxq := rfl
@[simp] theorem beginSend_txlog (f : List Byte) (s : State) : (beginSend f s).txlog = s.txlog := rfl
@[simp] theorem beginSend_now (f : List Byte) (s : State) : (beginSend f s).now = s.now := rfl
@[simp] theorem beginSend_events (f : List Byte) (s : State) : (beginSend f s).events = s.events := rfl
@[simp] theorem beginSend_outlog (f : List Byte) (s : State) : (beginSend f s).outlog = s.outlog := rfl
@[simp] theorem beginSend_exch (f : List Byte) (s : State) : (beginSend f s).exch = s.exch := rfl
@[simp] theorem beginSend_job (f : List Byte) (s : State) : (beginSend f s).job = s.job := rfl
@[simp] theorem beginSend_sched (f : List Byte) (s : State) : (beginSend f s).sched = s.sched := rfl
@[simp] theorem beginSend_fresh (f : List Byte) (s : State) : (beginSend f s).fresh = s.fresh + 1 := rfl
@[simp] theorem beginSend_par (f : List Byte) (s : State) : (beginSend f s).par = s.par := rfl

/-! ### beginSync -/

@[simp] theorem beginSync_phase (t : Nat) (s : State) : (beginSync t s).phase = .syncOnly := rfl
@[simp] theorem beginSync_pend (t : Nat) (s : State) : (beginSync t s).pend = s.pend := rfl
@[simp] theorem beginSync_syncDeadline (t : Nat) (s : State) : (beginSync t s).syncDeadline = s.now + t := rfl
@[simp] theorem beginSync_byteDeadline (t : Nat) (s : State) : (beginSync t s).byteDeadline = s.byteDeadline := rfl
@[simp] theorem beginSync_rxLen (t : Nat) (s : State) : (beginSync t s).rxLen = s.rxLen := rfl
@[simp] theorem beginSync_rxBuf (t : Nat) (s : State) : (beginSync t s).rxBuf = s.rxBuf := rfl
@[simp] theorem beginSync_chkOk (t : Nat) (s : State) : (beginSync t s).chkOk = s.chkOk := rfl
@[simp] theorem beginSync_hadStale (t : Nat) (s : State) : (beginSync t s).hadStale = s.hadStale := rfl
@[simp] theorem beginSync_rxq (t : Nat) (s : State) : (beginSync t s).rxq = s.rxq := rfl
@[simp] theorem beginSync_txlog (t : Nat) (s : State) : (beginSync t s).txlog = s.txlog := rfl
@[simp] theorem beginSync_now (t : Nat) (s : State) : (beginSync t s).now = s.now := rfl
@[simp] theorem beginSync_events (t : Nat) (s : State) : (beginSync t s).events = s.events := rfl
@[simp] theorem beginSync_outlog (t : Nat) (s : State) : (beginSync t s).outlog = s.outlog := rfl
@[simp] theorem beginSync_exch (t : Nat) (s : State) : (beginSync t s).exch = s.exch := rfl
@[simp] theorem beginSync_job (t : Nat) (s : State) : (beginSync t s).job = s.job := rfl
@[simp] theorem beginSync_sched (t : Nat) (s : State) : (beginSync t s).sched = s.sched := rfl
@[simp] theorem beginSync_fresh (t : Nat) (s : State) : (beginSync t s).fresh = s.fresh := rfl
@[simp] theorem beginSync_par (t : Nat) (s : State) : (beginSync t s).par = s.par := rfl

/-! ### beginReceive -/

@[simp] theorem beginReceive_phase (t : Nat) (s : State) : (beginReceive t s).phase = .recvSync := rfl
@[simp] theorem beginReceive_pend (t : Nat) (s : State) : (beginReceive t s).pend = s.pend := rfl
@[simp] theorem beginReceive_syncDeadline (t : Nat) (s : State) : (beginReceive t s).syncDeadline = s.now + t := rfl
@[simp] theorem beginReceive_byteDeadline (t : Nat) (s : State) :
    (beginReceive t s).byteDeadline = s.byteDeadline := rfl
@[simp] theorem beginReceive_rxLen (t : Nat) (s : State) : (beginReceive t s).rxLen = s.rxLen := rfl
@[simp] theorem beginReceive_rxBuf (t : Nat) (s : State) : (beginReceive t s).rxBuf = s.rxBuf := rfl
@[simp] theorem beginReceive_chkOk (t : Nat) (s : State) : (beginReceive t s).chkOk = s.chkOk := rfl
@[simp] theorem beginReceive_hadStale (t : Nat) (s : State) : (beginReceive t s).hadStale = s.hadStale := rfl
@[simp] theorem beginReceive_rxq (t : Nat) (s : State) : (beginReceive t s).rxq = s.rxq := rfl
@[simp] theorem beginReceive_txlog (t : Nat) (s : State) : (beginReceive t s).txlog = s.txlog := rfl
@[simp] theorem beginReceive_now (t : Nat) (s : State) : (beginReceive t s).now = s.now := rfl
@[simp] theorem beginReceive_events (t : Nat) (s : State) : (beginReceive t s).events = s.events := rfl
@[simp] theorem beginReceive_outlog (t : Nat) (s : State) : (beginReceive t s).outlog = s.outlog := rfl
@[simp] theorem beginReceive_exch (t : Nat) (s : State) : (beginReceive t s).exch = s.exch := rfl
@[simp] theorem beginReceive_job (t : Nat) (s : State) : (beginReceive t s).job = s.job := rfl
@[simp] theorem beginReceive_sched (t : Nat) (s : State) : (beginReceive t s).sched = s.sched := rfl
@[simp] theorem beginReceive_fresh (t : Nat) (s : State) : (beginReceive t s).fresh = s.fresh := rfl
@[simp] theorem beginReceive_par (t : Nat) (s : State) : (beginReceive t s).par = s.par := rfl

/-! ### awaitFrame -/

@[simp] theorem awaitFrame_phase (w : Wait) (t : Nat) (s : State) : (awaitFrame w t s).phase = .recvSync := rfl
@[simp] theorem awaitFrame_pend (w : Wait) (t : Nat) (s : State) : (awaitFrame w t s).pend = s.pend := rfl
@[simp] theorem awaitFrame_syncDeadline (w : Wait) (t : Nat) (s : State) :
    (awaitFrame w t s).syncDeadline = s.now + t := rfl
@[simp] theorem awaitFrame_byteDeadline (w : Wait) (t : Nat) (s : State) :
    (awaitFrame w t s).byteDeadline = s.byteDeadline := rfl
@[simp] theorem awaitFrame_rxLen (w : Wait) (t : Nat) (s : State) : (awaitFrame w t s).rxLen = s.rxLen := rfl
@[simp] theorem awaitFrame_rxBuf (w : Wait) (t : Nat) (s : State) : (awaitFrame w t s).rxBuf = s.rxBuf := rfl
@[simp] theorem awaitFrame_chkOk (w : Wait) (t : Nat) (s : State) : (awaitFrame w t s).chkOk = s.chkOk := rfl
@[simp] theorem awaitFrame_hadStale (w : Wait) (t : Nat) (s : State) :
    (awaitFrame w t s).hadStale = s.hadStale := rfl
@[simp] theorem awaitFrame_rxq (w : Wait) (t : Nat) (s : State) : (awaitFrame w t s).rxq = s.rxq := rfl
@[simp] theorem awaitFrame_txlog (w : Wait) (t : Nat) (s : State) : (awaitFrame w t s).txlog = s.txlog := rfl
@[simp] theorem awaitFrame_now (w : Wait) (t : Nat) (s : State) : (awaitFrame w t s).now = s.now := rfl
@[simp] theorem awaitFrame_events (w : Wait) (t : Nat) (s : State) : (awaitFrame w t s).events = s.events := rfl
@[simp] theorem awaitFrame_outlog (w : Wait) (t : Nat) (s : State) : (awaitFrame w t s).outlog = s.outlog := rfl
@[simp] theorem awaitFrame_exch (w : Wait) (t : Nat) (s : State) : (awaitFrame w t s).exch = some ⟨w, none⟩ := rfl
@[simp] theorem awaitFrame_job (w : Wait) (t : Nat) (s : State) : (awaitFrame w t s).job = s.job := rfl
@[simp] theorem awaitFrame_sched (w : Wait) (t : Nat) (s : State) : (awaitFrame w t s).sched = s.sched := rfl
@[simp] theorem awaitFrame_fresh (w : Wait) (t : Nat) (s : State) : (awaitFrame w t s).fresh = s.fresh := rfl
@[simp] theorem awaitFrame_par (w : Wait) (t : Nat) (s : State) : (awaitFrame w t s).par = s.par := rfl

/-! ### jobDone -/

@[simp] theorem jobDone_phase (r : OpResult) (s : State) : (jobDone r s).phase = s.phase := rfl
@[simp] theorem jobDone_pend (r : OpResult) (s : State) : (jobDone r s).pend = s.pend := rfl
@[simp] theorem jobDone_syncDeadline (r : OpResult) (s : State) : (jobDone r s).syncDeadline = s.syncDeadline := rfl
@[simp] theorem jobDone_byteDeadline (r : OpResult) (s : State) : (jobDone r s).byteDeadline = s.byteDeadline := rfl
@[simp] theorem jobDone_rxLen (r : OpResult) (s : State) : (jobDone r s).rxLen = s.rxLen := rfl
@[simp] theorem jobDone_rxBuf (r : OpResult) (s : State) : (jobDone r s).rxBuf = s.rxBuf := rfl
@[simp] theorem jobDone_chkOk (r : OpResult) (s : State) : (jobDone r s).chkOk = s.chkOk := rfl
@[simp] theorem jobDone_hadStale (r : OpResult) (s : State) : (jobDone r s).hadStale = s.hadStale := rfl
@[simp] theorem jobDone_rxq (r : OpResult) (s : State) : (jobDone r s).rxq = s.rxq := rfl
@[simp] theorem jobDone_txlog (r : OpResult) (s : State) : (jobDone r s).txlog = s.txlog := rfl
@[simp] theorem jobDone_now (r : OpResult) (s : State) : (jobDone r s).now = s.now := rfl
@[simp] theorem jobDone_events (r : OpResult) (s : State) : (jobDone r s).events = s.events := rfl
@[simp] theorem jobDone_outlog (r : OpResult) (s : State) : (jobDone r s).outlog = s.outlog ++ [r] := rfl
@[simp] theorem jobDone_exch (r : OpResult) (s : State) : (jobDone r s).exch = none := rfl
@[simp] theorem jobDone_job (r : OpResult) (s : State) : (jobDone r s).job = none := rfl
@[simp] theorem jobDone_sched (r : OpResult) (s : State) : (jobDone r s).sched = s.sched := rfl
@[simp] theorem jobDone_fresh (r : OpResult) (s : State) : (jobDone r s).fresh = s.fresh := rfl
@[simp] theorem jobDone_par (r : OpResult) (s : State) : (jobDone r s).par = s.par := rfl

/-! ### pushImage -/

@[simp] theorem pushImage_phase (im : Image) (s : State) : (pushImage im s).phase = s.phase := rfl
@[simp] theorem pushImage_pend (im : Image) (s : State) : (pushImage im s).pend = s.pend := rfl
@[simp] theorem pushImage_syncDeadline (im : Image) (s : State) :
    (pushImage im s).syncDeadline = s.syncDeadline := rfl
@[simp] theorem pushImage_byteDeadline (im : Image) (s : State) :
    (pushImage im s).byteDeadline = s.byteDeadline := rfl
@[simp] theorem pushImage_rxLen (im : Image) (s : State) : (pushImage im s).rxLen = s.rxLen := rfl
@[simp] theorem pushImage_rxBuf (im : Image) (s : State) : (pushImage im s).rxBuf = s.rxBuf := rfl
@[simp] theorem pushImage_chkOk (im : Image) (s : State) : (pushImage im s).chkOk = s.chkOk := rfl
@[simp] theorem pushImage_hadStale (im : Image) (s : State) : (pushImage im s).hadStale = s.hadStale := rfl
@[simp] theorem pushImage_rxq (im : Image) (s : State) : (pushImage im s).rxq = s.rxq := rfl
@[simp] theorem pushImage_txlog (im : Image) (s : State) : (pushImage im s).txlog = s.txlog := rfl
@[simp] theorem pushImage_now (im : Image) (s : State) : (pushImage im s).now = s.now := rfl
@[simp] theorem pushImage_events (im : Image) (s : State) : (pushImage im s).events = s.events := rfl
@[simp] theorem pushImage_outlog (im : Image) (s : State) : (pushImage im s).outlog = s.outlog := rfl
@[simp] theorem pushImage_exch (im : Image) (s : State) : (pushImage im s).exch = s.exch := rfl
@[simp] theorem pushImage_job (im : Image) (s : State) : (pushImage im s).job = s.job := rfl
@[simp] theorem pushImage_sched (im : Image) (s : State) : (pushImage im s).sched = .fetch im :: s.sched := rfl
@[simp] theorem pushImage_fresh (im : Image) (s : State) : (pushImage im s).fresh = s.fresh := rfl
@[simp] theorem pushImage_par (im : Image) (s : State) : (pushImage im s).par = s.par := rfl

end Sys2Proof.Machine
end

