-- ==== Sys2Proof/Tests/Slice0.lean ====
section
/-! SUPPORT. The model's own tests: the ill-formed terms that WellFormed refuses, words written out from the spec's encodings,
single steps whose results the spec's vectors give (spec/95_test_vectors.md), and for every statement a state and operands
that meet its hypotheses. -/

namespace Sys2Proof.Tests
open Sys2Proof.Machine Sys2Proof.Safety

/-! ### A small state -/

/-- Parameters with a finite body deadline. -/
def par2 : Params := ⟨.two, some 100, none, 5000, 30000, 16⟩
/-- The same under the other `LEN_BIAS`. -/
def par1 : Params := { par2 with lenBias := .one }
/-- The same with a finite receive queue. -/
def parCap (c : Nat) : Params := { par2 with rxCapacity := some c }
/-- Without a body deadline. -/
def parHang : Params := { par2 with bodyByteTimeout := none }

/-- A state in a phase, over a queue, with a schedule, at the time 1000. -/
def st (ph : Phase) (q : List Byte) (l : List Move) : State :=
  { State.created q 1000 par2 with phase := ph, sched := l }

/-- The same with a send in progress. -/
def sending (ph : Phase) (n d : Nat) (q : List Byte) (l : List Move) : State :=
  { st ph q l with pend := some ⟨[0x01#8, 0x03#8, 0x00#8, 0x20#8, 0xDC#8], n, d⟩ }

/-- A body being received: LEN 8, the first bytes there. -/
def receiving (buf q : List Byte) (l : List Move) : State :=
  { st .recvBody q l with rxLen := 0x08#8, rxBuf := buf, byteDeadline := some 1100 }

/-- Zero bytes. -/
def zeros (n : Nat) : List Byte := List.replicate n 0x00#8

theorem zeros_length (n : Nat) : (zeros n).length = n := List.length_replicate

/-- The phase, the queue, the transmitted bytes and the outcomes of a next state. -/
def seen : Host.Outcome State Fault Refusal → Option (Phase × List Byte × List Byte × List OpResult)
  | .next s => some (s.phase, s.rxq, s.txlog, s.outlog)
  | .fault _ => none
  | .refused _ => none

/-- The send in progress of a next state. -/
def seenPend : Host.Outcome State Fault Refusal → Option Pending
  | .next s => s.pend
  | .fault _ => none
  | .refused _ => none

/-- The exchange of a next state. -/
def seenExch : Host.Outcome State Fault Refusal → Option Exchange
  | .next s => s.exch
  | .fault _ => none
  | .refused _ => none

/-- The instruction that the decoder reads. -/
def reads (b : LenBias) (im : Image) : Option Instr :=
  match decodeImage b im with
  | .ok i => some i
  | .error _ => none

/-- The name by which the decoder rejects. -/
def rejects (b : LenBias) (im : Image) : Option DecodeError :=
  match decodeImage b im with
  | .ok _ => none
  | .error e => some e

/-! ### WellFormed refuses -/

theorem test_wf_request_ok : wellFormed .two (.request 0x03#8 [0x20#8] 0xDC#8) = true := by decide
theorem test_wf_request_bad : wellFormed .two (.request 0x03#8 [0x20#8, 0x21#8] 0xDC#8) = false := by decide
theorem test_wf_response_ok : wellFormed .one (.response 0x02#8 [0x20#8] 0x00#8) = true := by decide
theorem test_wf_response_bad : wellFormed .one (.response 0x02#8 [] 0x00#8) = false := by decide
theorem test_wf_encode_ok : wellFormed .two (.encode 0x00#8 (zeros 253)) = true := by
  simp [wellFormed, payloadFits, maxPayload, LenBias.toNat, zeros_length]
theorem test_wf_encode_bad : wellFormed .two (.encode 0x00#8 (zeros 254)) = false := by
  simp [wellFormed, payloadFits, maxPayload, LenBias.toNat, zeros_length]
theorem test_wf_version_bad : wellFormed .two (.getProtocolVersion (zeros 253)) = false := by
  simp [wellFormed, payloadFits, maxPayload, LenBias.toNat, zeros_length]
theorem test_wf_range_bad : wellFormed .two (.nvmExtWriteRange 0x000000#24 (zeros 250)) = false := by
  simp [wellFormed, payloadFits, maxPayload, LenBias.toNat, zeros_length]
theorem test_wf_firmware_bad : wellFormed .two (.fwUpdateNvm 0x00#8 (zeros 252)) = false := by
  simp [wellFormed, payloadFits, maxPayload, LenBias.toNat, zeros_length]

/-! ### Words of the spec's encodings -/

/-- R84. -/
theorem test_decode_sof : reads .two (.link [0x01#8]) = some .sof := by decide
/-- R84. -/
theorem test_decode_ack : reads .two (.link [0x06#8]) = some .ack := by decide
/-- R84. -/
theorem test_decode_nak : reads .two (.link [0x15#8]) = some .nak := by decide
/-- R84. -/
theorem test_decode_can : reads .two (.link [0x18#8]) = some .can := by decide
/-- R81, vector V12: the checksum equals SOF. -/
theorem test_decode_request : reads .two (.link [0x01#8, 0x03#8, 0x00#8, 0xFD#8, 0x01#8]) =
    some (.request 0x03#8 [0xFD#8] 0x01#8) := by decide
/-- Vector V6 under the other bias. -/
theorem test_decode_response : reads .one (.link [0x01#8, 0x07#8, 0x01#8, 0x20#8, 0x12#8, 0x34#8, 0x56#8, 0x78#8, 0x05#8, 0xD4#8]) =
    some (.response 0x07#8 [0x20#8, 0x12#8, 0x34#8, 0x56#8, 0x78#8, 0x05#8] 0xD4#8) := by decide
/-- R95: an operation has no code. -/
theorem test_decode_checksum : reads .two (.operation (.checksum [0x03#8])) = some (.checksum [0x03#8]) := by decide
theorem test_decode_encode : reads .two (.operation (.encode 0x00#8 [])) = some (.encode 0x00#8 []) := by decide
theorem test_decode_decode : reads .two (.operation (.decode [])) = some (.decode []) := by decide
theorem test_decode_sync : reads .two (.operation (.syncToFrameStart 5)) = some (.syncToFrameStart 5) := by decide
theorem test_decode_receive : reads .two (.operation (.receiveFrame 5)) = some (.receiveFrame 5) := by decide
theorem test_decode_drain : reads .two (.operation .drain) = some .drain := by decide
theorem test_decode_send : reads .two (.operation (.sendFrame [])) = some (.sendFrame []) := by decide
/-- R200. -/
theorem test_decode_init : reads .two (.command [0x02#8]) = some .getInitData := by decide
/-- R201. -/
theorem test_decode_capabilities : reads .two (.command [0x07#8]) = some .getCapabilities := by decide
/-- R202. -/
theorem test_decode_softReset : reads .two (.command [0x08#8]) = some .softReset := by decide
/-- R203. -/
theorem test_decode_protocol : reads .two (.command [0x09#8]) = some (.getProtocolVersion []) := by decide
/-- R204: payload byte 0x15 is a command, the link byte 0x15 is NAK. -/
theorem test_decode_library : reads .two (.command [0x15#8]) = some .getLibraryVersion := by decide
/-- R205. -/
theorem test_decode_home : reads .two (.command [0x20#8]) = some .getHomeNodeId := by decide
/-- R206. -/
theorem test_decode_manufacturer : reads .two (.command [0x29#8]) = some .nvmGetManufacturerId := by decide
/-- R207, R62: offset 0x123456, most significant byte first. -/
theorem test_decode_read : reads .two (.command [0x2A#8, 0x12#8, 0x34#8, 0x56#8, 0x00#8, 0x10#8]) =
    some (.nvmExtRead 0x123456#24 0x00#8 0x10#8) := by decide
/-- R208. -/
theorem test_decode_range : reads .two (.command [0x2B#8, 0x00#8, 0x00#8, 0x10#8, 0x02#8, 0xAA#8, 0xBB#8]) =
    some (.nvmExtWriteRange 0x000010#24 [0x02#8, 0xAA#8, 0xBB#8]) := by decide
/-- R209. -/
theorem test_decode_write : reads .two (.command [0x2D#8, 0xFF#8, 0x00#8, 0x01#8, 0x7E#8]) =
    some (.nvmExtWriteByte 0xFF0001#24 0x7E#8) := by decide
/-- R210. -/
theorem test_decode_factory : reads .two (.command [0x42#8]) = some .factoryReset := by decide
/-- R211. -/
theorem test_decode_add : reads .two (.command [0x4A#8, 0x01#8, 0x02#8]) = some (.addNode 0x01#8 0x02#8) := by decide
/-- R212. -/
theorem test_decode_remove : reads .two (.command [0x4B#8, 0x05#8, 0x00#8]) =
    some (.removeNode 0x05#8 0x00#8) := by decide
/-- R213. -/
theorem test_decode_firmware : reads .two (.command [0x78#8, 0x03#8, 0x09#8]) =
    some (.fwUpdateNvm 0x03#8 [0x09#8]) := by decide

/-! ### Images that are no instruction -/

theorem test_reject_empty : rejects .two (.link []) = some .empty := by decide
/-- R92. -/
theorem test_reject_garbage : rejects .two (.link [0x33#8]) = some (.noUnit 0x33#8) := by decide
/-- R90. -/
theorem test_reject_type : rejects .two (.link [0x01#8, 0x02#8, 0x07#8, 0xFA#8]) =
    some (.reservedType 0x07#8) := by decide
theorem test_reject_truncated : rejects .two (.link [0x01#8, 0x08#8, 0x01#8, 0x20#8]) =
    some .truncatedFrame := by decide
theorem test_reject_trailing : rejects .two (.link [0x06#8, 0x01#8]) = some .trailingBytes := by decide
/-- R215. -/
theorem test_reject_command : rejects .two (.command [0x03#8]) = some (.unknownCommand 0x03#8) := by decide
theorem test_reject_shape : rejects .two (.command [0x2D#8, 0x00#8]) = some (.commandShape 0x2D#8) := by decide

/-! ### The table's words (R97) -/

theorem test_word_request : decodeTableWord 24 0x010000 = some (.request 0x00#8 [] 0x00#8) := by decide
theorem test_word_response : decodeTableWord 24 0x010301 = some (.response 0x03#8 [0x00#8] 0x00#8) := by decide
theorem test_word_nak : decodeTableWord 8 0x15 = some .nak := by decide
theorem test_word_read : decodeTableWord 8 0x2A = some (.nvmExtRead 0x000000#24 0x00#8 0x00#8) := by decide
/-- The word of a row runs as the first instruction after reset. -/
theorem test_fetch_can : step (State.reset.withFetchWord 8 0x18) = exec .can State.reset := rfl
theorem test_fetch_home : step (State.reset.withFetchWord 8 0x20) = exec .getHomeNodeId State.reset := rfl

/-! ### Codec vectors -/

/-- V2. -/
theorem test_checksum : checksumOf [0x03#8, 0x00#8, 0x20#8] = 0xDC#8 := by decide
/-- V5, under both biases. -/
theorem test_encode : encodeFrame .two 0x00#8 [0x20#8] = some [0x01#8, 0x03#8, 0x00#8, 0x20#8, 0xDC#8] ∧
    encodeFrame .one 0x00#8 [0x20#8] = some [0x01#8, 0x02#8, 0x00#8, 0x20#8, 0xDD#8] := by decide
/-- V27: the LEN-flip counter-example. -/
theorem test_decode_lenFlip : decodeRaw .two [0x02#8, 0x00#8, 0xFD#8, 0x01#8] = .ok (.frame 0x00#8 [] 3) := by decide
/-- V26 and V25. -/
theorem test_decode_short : decodeRaw .two [0x01#8, 0xFE#8] = .err .tooShort [0xFE#8] ∧
    decodeRaw .two [0x00#8] = .err .checksumMismatch [] := by decide
/-- E6: HomeID and NodeID. -/
theorem test_home : homeNodeOf [0x20#8, 0x12#8, 0x34#8, 0x56#8, 0x78#8, 0x05#8] =
    some (0x12345678#32, 0x05#8) := by decide

/-! ### Single steps -/

/-- A unit in a phase that reads nothing waits (R89). -/
theorem test_sof_idle : seen (exec .sof (st .idle [] [])) = some (.idle, [0x01#8], [], []) := by decide
/-- V65: the handshake byte. -/
theorem test_ack_first : seen (exec .ack (sending .sendWait1 1 1500 [] [])) =
    some (.idle, [], [], [.ok (.acknowledged 1 .first)]) := by decide
/-- V68: the tiers do not chain. -/
theorem test_nak_second : seen (exec .nak (sending .sendWait2T 2 2500 [] [])) =
    some (.idle, [], [], [.err .noAcknowledgment []]) := by decide
/-- V64: an ACK before the back-off. -/
theorem test_can_first : seen (exec .can (sending .sendWait1 1 1500 [] [])) = some (.sendBackoff, [], [0x06#8], []) := by
  decide
/-- V72: a frame in the first wait: its first byte is taken, the rest stays. -/
theorem test_response_wait : seen (exec (.response 0x05#8 [0x4A#8, 0x01#8, 0x05#8] 0xB5#8) (sending .sendWait1 1 1500 [] [])) =
    some (.sendBackoff, [0x05#8, 0x01#8, 0x4A#8, 0x01#8, 0x05#8, 0xB5#8], [0x06#8], []) := by decide
/-- V47: the frame is read whole; the acknowledgement is the next step. -/
theorem test_response_hunt : seen (exec (.response 0x08#8 [0x20#8, 0x12#8, 0x34#8, 0x56#8, 0x78#8, 0x05#8] 0xDB#8)
    (st .recvSync [] [])) = some (.recvAck, [], [], []) := by decide
/-- V48: a bad checksum is acknowledged and returned all the same. -/
theorem test_recvAck : seen (step { receiving [0x01#8, 0x20#8, 0x12#8, 0xCB#8, 0x56#8, 0x78#8, 0x05#8, 0xDB#8] [] [.transport]
    with phase := .recvAck }) = some (.idle, [], [0x06#8],
      [.ok (.received [0x01#8, 0x20#8, 0x12#8, 0xCB#8, 0x56#8, 0x78#8, 0x05#8, 0xDB#8] false)]) := by decide
/-- A sentinel value inside a frame is data (R88). -/
theorem test_request_inBody : seen (exec (.request 0x02#8 [] 0xFD#8) (receiving [0x01#8, 0x20#8, 0x12#8, 0x34#8] [] [])) =
    some (.recvAck, [], [], []) := by decide
/-- V62: the six stale bytes are counted and gone, and nothing is written. -/
theorem test_drain_count : (drain (sending .sendStart 0 0 [0x01#8, 0x04#8, 0x01#8, 0x13#8, 0x00#8, 0xE9#8] [])).1 = 6 ∧
    (drain (sending .sendStart 0 0 [0x01#8, 0x04#8, 0x01#8, 0x13#8, 0x00#8, 0xE9#8] [])).2.rxq = [] ∧
    (drain (sending .sendStart 0 0 [0x01#8, 0x04#8, 0x01#8, 0x13#8, 0x00#8, 0xE9#8] [])).2.txlog = [] := by decide
/-- R157: at the end of the back-off the drain is followed by the frame and no ACK. -/
theorem test_drain_backoff : seen (exec .drain (sending .sendBackoff 1 1000 [0x06#8] [])) =
    some (.sendWait2N, [], [0x01#8, 0x03#8, 0x00#8, 0x20#8, 0xDC#8], []) := by decide
/-- V66: a stale frame is drained; one ACK, then the frame. -/
theorem test_sendStart : seen (step (sending .sendStart 0 0 [0x01#8, 0x04#8, 0x01#8, 0x13#8, 0x00#8, 0xE9#8] [.transport])) =
    some (.sendWait1, [], [0x06#8, 0x01#8, 0x03#8, 0x00#8, 0x20#8, 0xDC#8], []) := by decide
/-- V75: a byte at the deadline wins. -/
theorem test_deadline : seen (step (sending .sendWait1 1 1000 [0x06#8] [.transport])) =
    some (.idle, [], [], [.ok (.acknowledged 1 .first)]) := by decide
/-- V63: the resend on the timeout path, and its wait of 1500 ms. -/
theorem test_timeout : seenPend (step (sending .sendWait1 1 1000 [] [.transport])) =
    some ⟨[0x01#8, 0x03#8, 0x00#8, 0x20#8, 0xDC#8], 2, 2500⟩ := by decide
/-- R136, R140: at the deadline of a body byte the partial body is dropped, and nothing is written. -/
theorem test_body_timeout : seen (step { receiving [0x01#8, 0x20#8] [] [.transport] with now := 1100 }) =
    some (.idle, [], [], [.err .frameBodyTimeout []]) ∧
    (onTimeout (receiving [0x01#8, 0x20#8] [] [])).rxBuf = [] := by decide
/-- R21. -/
theorem test_sync_refused : seen (exec (.syncToFrameStart 5) (st .recvSync [] [])) =
    some (.recvSync, [], [], [.err .refused []]) := by decide
theorem test_receive_issued : seen (exec (.receiveFrame 5) (st .idle [0x01#8] [])) = some (.recvSync, [0x01#8], [], []) := by
  decide
theorem test_send_issued : seen (exec (.sendFrame []) (st .idle [] [])) = some (.sendStart, [], [], []) := by decide
/-- R210: no reply is expected. -/
theorem test_factory_noReply : seenExch (exec .factoryReset (st .idle [] [])) =
    some ⟨.handshake false 5000, none⟩ := by decide
/-- R204. -/
theorem test_library_reply : seenExch (exec .getLibraryVersion (st .idle [] [])) =
    some ⟨.handshake true 5000, none⟩ := by decide
/-- R151, R35 (5): outside `sendFrame` there is no drain, and the queue stays. -/
theorem test_drain_idle : seen (exec .drain (st .idle [0x06#8] [])) = some (.idle, [0x06#8], [], [.err .refused []]) := by
  decide
/-- P1: what the caller of `call` gets. -/
theorem test_call_reply : replyResult [0x01#8, 0x20#8, 0x12#8, 0x34#8, 0x56#8, 0x78#8, 0x05#8, 0xDB#8] true =
    .ok (.reply (some [0x20#8, 0x12#8, 0x34#8, 0x56#8, 0x78#8, 0x05#8])) := by decide
/-- R197: a frame of another command is no status of add-node. -/
theorem test_member_otherCommand : memberStatusOf true [0x4B#8, 0x01#8, 0x06#8] = .unknown := by decide
/-- R195, R111: a chunk that `encode` refuses ends a `fill` with how far it got. -/
theorem test_fill_refused : callRefused par2 (.fill 0xFF#8 64 16 32) = .stopped .refused 32 := by decide
/-- R14: the three forms of a count of 16. -/
theorem test_lengthField : lengthField .oneByte 16 = [0x10#8] ∧ lengthField .twoBytesHighFirst 16 = [0x00#8, 0x10#8] ∧
    lengthField .twoBytesLowFirst 16 = [0x10#8, 0x00#8] := by decide

/-! ### Witnesses: for every statement with hypotheses, a state and operands that meet them, each clause at its boundary -/

theorem witness_ChecksumAnswersTheXorFold : List.Perm [0x01#8, 0x02#8] [0x02#8, 0x01#8] := List.Perm.swap _ _ _

theorem witness_EncodeAnswersTheFrame :
    (zeros 253).length ≤ 255 - (st .idle [] []).par.lenBias.toNat ∧ (zeros 254).length ≤ 255 - par1.lenBias.toNat := by
  simp [zeros_length, st, State.created, par1, par2, LenBias.toNat]

/-- V24, V28, V26, V22: one input for each of the four tests, under `LEN_BIAS` 2. -/
theorem witness_DecodeAnswersByItsTests :
    ([0x01#8, 0x02#8].length < (0x05#8 : Byte).toNat + 2 - LenBias.two.toNat) ∧
    ([0x00#8].length = (0x01#8 : Byte).toNat + 2 - LenBias.two.toNat ∧
      [0x01#8, 0x00#8].foldl (fun a x => a ^^^ x) 0xFF#8 ≠ 0x00#8) ∧
    ([0x01#8, 0xFE#8].foldl (fun a x => a ^^^ x) 0xFF#8 = 0x00#8 ∧ (0x01#8 : Byte).toNat + 2 - LenBias.two.toNat < 2) ∧
    ([0x02#8, 0x00#8, 0xFD#8].foldl (fun a x => a ^^^ x) 0xFF#8 = 0x00#8 ∧
      2 ≤ (0x02#8 : Byte).toNat + 2 - LenBias.two.toNat) := by decide

theorem witness_DecodeInvertsEncode :
    (zeros 253).length ≤ maxPayload .two ∧ (zeros 254).length ≤ maxPayload .one ∧ ([] : List Byte).length ≤ maxPayload .two := by
  simp [zeros_length, maxPayload, LenBias.toNat]

/-- V33: the first byte after LEN, and the last byte of the frame. -/
theorem witness_OneCorruptByteIsDetected : ∃ f : List Byte, encodeFrame (st .idle [] []).par.lenBias 0x00#8 [0x20#8] = some f ∧
    2 < f.length ∧ f[2]? ≠ some 0x01#8 ∧ f[4]? ≠ some 0xDD#8 := ⟨[0x01#8, 0x03#8, 0x00#8, 0x20#8, 0xDC#8], by decide⟩

theorem witness_DecodingAnImageGivesTheInstruction :
    wellFormed .two (.request 0x00#8 [] 0xFF#8) = true ∧ wellFormed .one (.response 0x03#8 [0x20#8, 0x21#8] 0x00#8) = true ∧
    wellFormed .two (.removeNode 0x00#8 0xFF#8) = true := by decide

theorem witness_DecodedBytesAreTheImage :
    decodeImage .two (.link [0x01#8, 0x02#8, 0x00#8, 0xFD#8]) = .ok (.request 0x02#8 [] 0xFD#8) ∧
    decodeImage .two (.command [0x78#8, 0x00#8]) = .ok (.fwUpdateNvm 0x00#8 []) := ⟨rfl, rfl⟩

theorem witness_UnitsWaitWhenNoPhaseReads : ∃ (i : Instr) (s : State), i = .can ∧ s.phase = .sendBackoff ∧
    s.par.rxCapacity = some 1 ∧ s.rxq.length + (instrBytes i).length ≤ 1 :=
  ⟨.can, { sending .sendBackoff 1 1500 [] [] with par := parCap 1 }, by decide⟩

theorem witness_AckEndsAHandshakeWait :
    (sending .sendWait1 1 1500 [] []).rxq = [] ∧ (sending .sendWait1 1 1500 [] []).phase = .sendWait1 ∧
    (sending .sendWait2T 2 2500 [] []).phase = .sendWait2T ∧ (sending .sendWait2N 2 1500 [] []).phase = .sendWait2N ∧
    (sending .sendWait1 1 1500 [] []).par.rxCapacity = none ∧ (parCap 1).rxCapacity = some 1 := by decide

theorem witness_NonAckRetriesOnceThenFails :
    (sending .sendWait1 1 1500 [] []).phase = .sendWait1 ∧ (sending .sendWait1 1 1500 [] []).rxq = [] ∧
    (sending .sendWait1 1 1500 [] []).pend = some ⟨[0x01#8, 0x03#8, 0x00#8, 0x20#8, 0xDC#8], 1, 1500⟩ ∧
    (sending .sendWait2T 2 2500 [] []).phase = .sendWait2T ∧ (sending .sendWait2N 2 1500 [] []).phase = .sendWait2N ∧
    (sending .sendWait2N 2 1500 [] []).rxq = [] ∧ (sending .sendWait2N 2 1500 [] []).par.rxCapacity = none := by decide

theorem witness_SofEndsTheHunt :
    (st .syncOnly [] []).rxq = [] ∧ (st .syncOnly [] []).par.rxCapacity = none ∧ (st .syncOnly [] []).phase = .syncOnly ∧
    (st .recvSync [] []).phase = .recvSync := by decide

theorem witness_OtherSentinelsAreDiscardedInAHunt :
    (st .syncOnly [] []).phase = .syncOnly ∧ (st .recvSync [] []).phase = .recvSync ∧ (st .recvSync [] []).rxq = [] ∧
    (st .recvSync [] []).par.rxCapacity = none := by decide

/-- LEN is read; the last byte of a body of 8; the first of it. -/
theorem witness_SentinelValuesInsideAFrameAreData :
    (st .recvLen [] []).phase = .recvLen ∧ (st .recvLen [] []).rxq = [] ∧ (st .recvLen [] []).par.rxCapacity = none ∧
    (receiving (zeros 7) [] []).phase = .recvBody ∧
    (receiving (zeros 7) [] []).rxBuf.length + 1 = (receiving (zeros 7) [] []).rxLen.toNat + 2 - LenBias.two.toNat ∧
    (receiving [] [] []).rxBuf.length + 1 ≠ (receiving [] [] []).rxLen.toNat + 2 - LenBias.two.toNat := by decide

/-- The shortest frame under either bias. -/
theorem witness_FrameArrivingInAHuntIsReadWhole :
    ([] : List Byte).length + 2 = (0x02#8 : Byte).toNat + 2 - (st .recvSync [] []).par.lenBias.toNat ∧
    ([] : List Byte).length + 2 = (0x01#8 : Byte).toNat + 2 - par1.lenBias.toNat ∧
    (st .recvSync [] []).phase = .recvSync ∧ (st .recvSync [] []).rxq = [] ∧ (st .recvSync [] []).par.rxCapacity = none := by
  decide

theorem witness_FrameInAHandshakeWaitIsNotReceived :
    (sending .sendWait1 1 1500 [] []).rxq = [] ∧ (sending .sendWait1 1 1500 [] []).phase = .sendWait1 ∧
    (sending .sendWait2T 2 1500 [] []).phase = .sendWait2T ∧ (sending .sendWait2N 2 1500 [] []).phase = .sendWait2N ∧
    (sending .sendWait1 1 1500 [] []).par.rxCapacity = none := by decide

/-- The last byte that fits, and one byte past the capacity. -/
theorem witness_PeerStepAppendsWithinCapacity : ∃ s t : State,
    s.par.rxCapacity = some 3 ∧ s.sched = [.peer [0x33#8]] ∧ s.rxq.length + [0x33#8].length = 3 ∧
    t.par.rxCapacity = some 2 ∧ t.sched = [.peer [0x33#8]] ∧ 2 < t.rxq.length + [0x33#8].length ∧
    2 < t.rxq.length + (instrBytes .ack).length :=
  ⟨{ st .idle [0x01#8, 0x02#8] [.peer [0x33#8]] with par := parCap 3 },
    { st .idle [0x01#8, 0x02#8] [.peer [0x33#8]] with par := parCap 2 }, by decide⟩

theorem witness_TransportOperationsAreIssued :
    (st .idle [] []).phase = .idle ∧ (st .idle [] []).exch = none ∧ (st .idle [] []).job = none := by decide

/-- Each of the two phases with a drain, the second at its deadline and one millisecond before it; and a phase without one. -/
theorem witness_DrainEmptiesTheQueue :
    (sending .sendStart 0 0 [0x06#8] []).phase = .sendStart ∧ (sending .sendStart 0 0 [0x06#8] []).pend.isSome = true ∧
    (sending .sendBackoff 1 1000 [0x06#8] []).phase = .sendBackoff ∧
    (sending .sendBackoff 1 1000 [0x06#8] []).pend.map (·.deadline) = some (sending .sendBackoff 1 1000 [0x06#8] []).now ∧
    (∀ q ∈ (sending .sendBackoff 1 1001 [0x06#8] []).pend, (sending .sendBackoff 1 1001 [0x06#8] []).now < q.deadline) ∧
    (st .idle [0x06#8] []).phase = .idle := by decide

theorem witness_BusyBlockRefuses : (st .recvBody [] []).phase ≠ .idle ∧
    ({ st .idle [] [] with exch := some ⟨.reply, none⟩ } : State).exch ≠ none ∧
    ({ st .idle [] [] with job := some .identify } : State).job ≠ none ∧
    (st .recvBody [] []).phase ≠ .sendStart ∧ (st .recvBody [] []).phase ≠ .sendBackoff := by decide

theorem witness_CommandsWithoutArgumentsSendTheirFrame :
    (st .idle [] []).phase = .idle ∧ (st .idle [] []).exch = none ∧ (st .idle [] []).job = none ∧
    (st .idle [] []).par.lenBias = .two ∧ par1.lenBias = .one := by decide

theorem witness_CommandsWithArgumentsSendTheirFrame :
    (0x78#8 :: 0x01#8 :: zeros 251).length ≤ 255 - (st .idle [] []).par.lenBias.toNat ∧
    (st .idle [] []).phase = .idle ∧ (st .idle [] []).exch = none ∧ (st .idle [] []).job = none := by
  simp [zeros_length, st, State.created, par2, LenBias.toNat]

/-- One byte past the longest payload, for either bias and for a command. -/
theorem witness_LongPayloadIsRefused :
    255 - (st .idle [] []).par.lenBias.toNat < (zeros 254).length ∧ 255 - par1.lenBias.toNat < (zeros 255).length ∧
    255 - (st .idle [] []).par.lenBias.toNat < (0x78#8 :: 0x01#8 :: zeros 252).length ∧
    255 - (st .idle [] []).par.lenBias.toNat < ([0x2B#8, 0x00#8, 0x00#8, 0x00#8] ++ zeros 250).length := by
  simp [zeros_length, st, State.created, par1, par2, LenBias.toNat]

theorem witness_ReceivedFrameIsAcknowledgedOnce :
    (st .recvAck [] [.transport]).sched = [.transport] ∧ (st .recvAck [] [.transport]).phase = .recvAck := by decide

theorem witness_SendStartDrainsAndWritesTheFrame :
    (sending .sendStart 0 0 [] [.transport]).sched = [.transport] ∧ (sending .sendStart 0 0 [] [.transport]).phase = .sendStart ∧
    (sending .sendStart 0 0 [] [.transport]).pend.isSome = true ∧ (sending .sendStart 0 0 [] [.transport]).rxq = [] ∧
    (sending .sendStart 0 0 [0x18#8] [.transport]).rxq ≠ [] := by decide

/-- Exactly at the deadline. -/
theorem witness_FirstWaitTimeoutResends :
    (sending .sendWait1 1 1000 [] [.transport]).phase = .sendWait1 ∧ (sending .sendWait1 1 1000 [] [.transport]).rxq = [] ∧
    (sending .sendWait1 1 1000 [] [.transport]).pend.map (·.deadline) = some (sending .sendWait1 1 1000 [] []).now := by decide

/-- One millisecond before the deadline, and at it. -/
theorem witness_BackoffSleepsThenDrainsAndResends :
    (sending .sendBackoff 1 1001 [] [.transport]).phase = .sendBackoff ∧ (sending .sendBackoff 1 1001 [] []).now < 1001 ∧
    (sending .sendBackoff 1 1001 [] []).pend.map (·.deadline) = some 1001 ∧
    (sending .sendBackoff 1 1000 [] []).pend.map (·.deadline) = some (sending .sendBackoff 1 1000 [] []).now := by decide

theorem witness_DeadlinesEndTheOperation :
    (sending .sendWait2T 2 1000 [] [.transport]).rxq = [] ∧
    (sending .sendWait2T 2 1000 [] []).pend.map (·.deadline) = some (sending .sendWait2T 2 1000 [] []).now ∧
    (st .recvSync [] [.transport]).syncDeadline ≤ (st .recvSync [] [.transport]).now ∧
    ({ receiving [] [] [.transport] with now := 1100 } : State).byteDeadline = some 1100 := by decide

/-- A queued byte in each of the seven phases that read. -/
theorem witness_QueuedByteDecidesByPhase :
    [Phase.syncOnly, .recvSync, .recvLen, .recvBody, .sendWait1, .sendWait2T, .sendWait2N].map
      (fun ph => ((st ph [0x06#8] [.transport]).rxq, (st ph [0x06#8] [.transport]).sched)) =
      List.replicate 7 ([0x06#8], [Move.transport]) := by decide

theorem witness_UnitArrivalIsAPeerStepThenReads : ∃ s : State, s.par.rxCapacity = some 3 ∧
    s.rxq.length + (instrBytes .sof).length ≤ 3 ∧ s.phase = .recvSync :=
  ⟨{ st .recvSync [0x33#8, 0x01#8] [] with par := parCap 3 }, by decide⟩

theorem witness_TruncatedFrameHangsWithoutADeadline :
    ({ st .recvBody [] [.time 7] with par := parHang } : State).byteDeadline = none ∧ (st .recvBody [] [.time 7]).rxq = [] ∧
    (st .recvLen [] [.host]).phase = .recvLen ∧ (st .recvBody [] [.time 7]).sched = [.time 7] ∧
    (st .recvLen [] []).byteDeadline = none ∧ (st .recvLen [] []).sched = [] := by decide

/-- Exactly up to the deadline; one millisecond past it; a deadline already reached; the three kinds of wait; and where no
wait bounds time: a queued byte, a body without a deadline. -/
theorem witness_TimeStopsAtAWaitsDeadline :
    ({ st .recvSync [] [.time 50] with syncDeadline := 1050 } : State).syncDeadline = 1000 + 50 ∧
    ({ st .recvSync [] [.time 51] with syncDeadline := 1050 } : State).syncDeadline < 1000 + 51 ∧
    (sending .sendWait1 1 1500 [] [.time 501]).pend.map (·.deadline) = some 1500 ∧
    (receiving [] [] [.time 101]).byteDeadline = some 1100 ∧
    deadlineOf (sending .sendWait1 1 1000 [] [.time 5]) = some (sending .sendWait1 1 1000 [] []).now ∧
    (st .sendWait1 [0x06#8] [.time 5]).rxq ≠ [] ∧
    (st .recvLen [] [.time 5]).phase = .recvLen ∧ (st .recvLen [] [.time 5]).byteDeadline = none := by decide

theorem witness_StepRunsTheDecodedInstruction :
    (st .idle [] [.fetch (.link [0x06#8])]).sched = [.fetch (.link [0x06#8])] ∧
    decodeImage (st .idle [] []).par.lenBias (.link [0x06#8]) = .ok .ack := ⟨rfl, rfl⟩

theorem witness_BytesOutsideTheTableAreCarried :
    decodeImage (st .idle [] []).par.lenBias (.link [0x33#8]) = .error (.noUnit 0x33#8) ∧
    decodeImage (st .idle [] []).par.lenBias (.command [0x03#8]) = .error (.unknownCommand 0x03#8) ∧
    decodeImage (st .idle [] []).par.lenBias (.command [0x20#8, 0x55#8]) = .error (.commandShape 0x20#8) ∧
    [0x03#8].length ≤ 255 - (st .idle [] []).par.lenBias.toNat ∧ (st .idle [] []).exch = none ∧
    (st .idle [] []).rxq.length + [0x33#8].length ≤ 1 ∧ (parCap 1).rxCapacity = some 1 :=
  ⟨rfl, rfl, rfl, by decide, rfl, by decide, rfl⟩

theorem witness_CallGoesOnAfterTheHandshake :
    ({ st .idle [] [.host] with exch := some ⟨.handshake true 5000, some (.ok (.acknowledged 1 .first))⟩ } : State).job = none ∧
    ({ st .idle [] [.host] with exch := some ⟨.handshake false 5000, some (.ok (.acknowledged 2 .afterNonAck))⟩ } : State).phase =
      .idle ∧
    ({ st .idle [] [.host] with exch := some ⟨.handshake true 5000, some (.err .noAcknowledgment [])⟩ } : State).sched =
      [.host] := by decide

/-- A reply with an empty payload, one with a bad checksum, one of a single byte, and an error. -/
theorem witness_CallResolvesItsReply :
    ({ st .idle [] [.host] with exch := some ⟨.reply, some (.ok (.received [0x01#8, 0xFC#8] true))⟩ } : State).job = none ∧
    ({ st .idle [] [.host] with exch := some ⟨.reply, some (.ok (.received [] false))⟩ } : State).phase = .idle ∧
    ([0xFE#8] : List Byte).length < 2 ∧
    ({ st .idle [] [.host] with exch := some ⟨.reply, some (.err .frameSyncTimeout [])⟩ } : State).sched = [.host] := by decide

theorem witness_AwaitCallbackIsReceiveFrame :
    (st .idle [] [.start (.awaitCallback 3000)]).sched = [.start (.awaitCallback 3000)] ∧ (st .idle [] []).exch = none ∧
    ({ st .idle [] [.host] with exch := some ⟨.callback, some (.err .frameSyncTimeout [])⟩ } : State).job = none := by decide

/-- A busy block; a `call` of the host's own; an operation that begins; and one that goes on, to a `call`, to an `await`, and to
its end. -/
theorem witness_HostOperationsRunByTheirActs :
    (st .recvAck [] [.start .identify]).phase ≠ .idle ∧
    encodeFrame par2.lenBias 0x00#8 [0x20#8] = some [0x01#8, 0x03#8, 0x00#8, 0x20#8, 0xDC#8] ∧
    (st .idle [] [.start .identify]).phase = .idle ∧ (st .idle [] [.start .identify]).exch = none ∧
    jobBegin par2 .identify = some (.identify, .call [0x29#8] true 5000) ∧
    channelNext (.handshake false 5000) (.ok (.acknowledged 1 .first)) = .resolved (.ok (.reply none)) ∧
    jobNext par2 (.factoryReset 9) (.ok (.reply none)) = (.softReset 9, .call [0x08#8] false 5000) ∧
    jobNext par2 (.softReset 9) (.ok (.reply none)) = (.resetCallback, .await 9) ∧
    jobNext par2 .writeByte (.ok (.reply (some [0x2D#8, 0x00#8]))) = (.writeByte, .done (.err .writeFailed [])) := by decide

/-- A payload that fits no frame. -/
theorem witness_HostOperationsRunByTheirActs_long : encodeFrame par2.lenBias 0x00#8 (zeros 254) = none := by
  simp [encodeFrame, maxPayload, zeros_length, par2, LenBias.toNat]

theorem witness_WriteByteFailsOnAZeroStatus :
    ({ st .idle [] [.host] with
        job := some .writeByte
        exch := some ⟨.reply, some (.ok (.received [0x01#8, 0x2D#8, 0x00#8, 0xD2#8] true))⟩ } : State).phase = .idle := by decide

/-- Of two chunks the first, which another follows, and the last. -/
theorem witness_FillWritesSixteenByteChunksInOrder :
    par2.chunkMax = 16 ∧ 0 < 2 ∧ 0 + 1 < 2 ∧ 1 < 2 ∧ 1 + 1 = 2 ∧ (0x01#8 : Byte) ≠ 0x00#8 := by decide

/-- The echo check is a free function, so one of the two clauses about it holds of every response. -/
theorem witness_ReadRangeReadsInChunks : par2.chunkMax = 16 ∧ (0 : Nat) < 1 ∧ (0x0000#16 : BitVec 16) = 0#16 ∧ 0xFFFF#16 ≠ 0#16 ∧
    (Config.nvmEchoOk [0x2A#8] [0x2A#8] = false ∨ Config.nvmEchoOk [0x2A#8] [0x2A#8] = true) :=
  ⟨rfl, Nat.one_pos, rfl, by decide, by cases Config.nvmEchoOk [0x2A#8] [0x2A#8] <;> simp⟩

theorem witness_WriteRangeWritesInChunks : par2.chunkMax = 16 ∧ ([0xFF#8] : List Byte) ≠ [] ∧ (0xFF#8 : Byte) ≠ 0x00#8 := by
  decide

/-- A state in a send phase that meets the invariant. -/
theorem witness_StateInv : StateInv (sending .sendWait1 1 1500 [0x33#8] []) :=
  ⟨rfl, fun p hp => (by cases hp; rfl), ⟨fun h => (nomatch h), fun h => (nomatch h)⟩, fun c hc => (nomatch hc), rfl,
    fun h => (nomatch h)⟩

theorem witness_EveryStepKeepsTheInvariant : StateInv (sending .sendWait1 1 1500 [0x33#8] []) ∧
    (sending .sendWait1 1 1500 [0x33#8] []).pend.isSome = true ∧
    seen (step (sending .sendWait1 1 1500 [0x33#8] [])) = some (.sendBackoff, [], [0x06#8], []) :=
  ⟨witness_StateInv, by decide⟩

theorem witness_HistoriesOnlyGrow :
    seen (step (st .recvSync [0x33#8] [.transport])) = some (.recvSync, [], [], []) := by decide

theorem witness_OnlyAckAndTheFrameAreTransmitted :
    seen (step (sending .sendStart 0 0 [0x33#8] [.transport])) =
      some (.sendWait1, [], [0x06#8, 0x01#8, 0x03#8, 0x00#8, 0x20#8, 0xDC#8], []) := by decide

theorem witness_PendingFrameNeverChanges : StateInv (sending .sendWait1 1 1500 [0x33#8] []) ∧
    (sending .sendWait1 1 1500 [0x33#8] []).pend = some ⟨[0x01#8, 0x03#8, 0x00#8, 0x20#8, 0xDC#8], 1, 1500⟩ ∧
    seen (step (sending .sendWait1 1 1500 [0x33#8] [])) = some (.sendBackoff, [], [0x06#8], []) :=
  ⟨witness_StateInv, rfl, by decide⟩

theorem witness_NothingIsReadWhereNothingIsReadable :
    seen (step (st .idle [] [.peer [0x01#8]])) = some (.idle, [0x01#8], [], []) ∧
    seen (step (st .recvAck [0x33#8] [.transport])) = some (.idle, [0x33#8], [0x06#8], [.ok (.received [] false)]) ∧
    seen (step (sending .sendBackoff 1 1001 [0x33#8] [.transport])) = some (.sendBackoff, [0x33#8], [], []) ∧
    seen (step (st .recvSync [0x33#8, 0x44#8] [.transport])) = some (.recvSync, [0x44#8], [], []) ∧
    seen (step (st .syncOnly [0x33#8] [])) = some (.syncOnly, [], [], []) ∧
    seen (step (st .recvSync [] [.fetch (.link [0x33#8])])) = some (.recvSync, [], [], []) ∧
    seen (step (st .recvSync [] [.fetch (.operation .ack)])) = some (.recvSync, [], [], []) ∧
    seen (step (sending .sendStart 0 0 [0x33#8] [.fetch (.operation .drain)])) =
      some (.sendWait1, [], [0x06#8, 0x01#8, 0x03#8, 0x00#8, 0x20#8, 0xDC#8], []) :=
  ⟨by decide, by decide, by decide, by decide, by decide, by decide, by decide, by decide⟩

theorem witness_OnlyTheTablesTransitions :
    seen (step (sending .sendWait2N 2 1500 [0x33#8] [.transport])) = some (.idle, [], [], [.err .noAcknowledgment []]) ∧
    (sending .sendWait2N 2 1500 [0x33#8] [.transport]).sched.head? = some .transport := by decide

theorem witness_OperationsEndWithOneOutcome :
    seen (step (st .syncOnly [0x01#8] [.transport])) = some (.idle, [], [], [.ok .unit]) ∧
    (st .syncOnly [0x01#8] [.transport]).phase ≠ .idle := by decide

theorem witness_FlagsAreWrittenInOnePhaseOnly :
    seen (step (st .sendStart [0x33#8] [.transport])) = some (.sendWait1, [], [0x06#8], []) ∧
    (st .sendStart [0x33#8] [.transport]).phase ≠ .recvAck ∧ (st .recvAck [] [.transport]).phase ≠ .sendStart := by decide

/-- No garbage at all, and V42. -/
theorem witness_SyncConsumesExactlyTheGarbage :
    ((0x01#8 : Byte) ∉ ([] : List Byte)) ∧ ((0x01#8 : Byte) ∉ [0x00#8, 0xFF#8, 0x06#8, 0x15#8]) ∧
    (st .idle [0x00#8, 0xFF#8, 0x06#8, 0x15#8, 0x01#8, 0x03#8]
      (.fetch (.operation (.syncToFrameStart 100)) :: List.replicate 5 .transport)).exch = none := by decide

/-- V49: LEN 0, no body byte; and V48, with garbage before and after. -/
theorem witness_ReceiveFrameDeliversTheBody :
    ([] : List Byte).length = (0x00#8 : Byte).toNat + 2 - (st .idle [] []).par.lenBias.toNat ∧
    [0x01#8, 0x20#8, 0x12#8, 0xCB#8, 0x56#8, 0x78#8, 0x05#8, 0xDB#8].length =
      (0x08#8 : Byte).toNat + 2 - (st .idle [] []).par.lenBias.toNat ∧
    ((0x01#8 : Byte) ∉ [0x15#8, 0x00#8]) ∧ (st .idle [0x01#8, 0x00#8] []).job = none := by decide

theorem witness_SilentPeerGetsExactlyTwoSends :
    (st .idle [] [.fetch (.operation (.sendFrame [])), .transport, .time 500, .transport, .time 1500, .transport]).phase = .idle ∧
    (st .idle [0x06#8] []).exch = none ∧ (st .idle [0x06#8] []).job = none := by decide

end Sys2Proof.Tests
end

section
/-! PROOF. The multi-byte values of the NVM and HomeID payloads (R62). -/

namespace Sys2Proof.Machine

/-- The bytes of an NVM offset are its fields `A[23:16]`, `A[15:8]`, `A[7:0]`: a shift is a division (R62). -/
theorem addrBytes_eq_extractLsb' (a : Addr24) :
    addrBytes a = [a.extractLsb' 16 8, a.extractLsb' 8 8, a.extractLsb' 0 8] := by
  simp [addrBytes, BitVec.extractLsb', Nat.shiftRight_eq_div_pow]

/-- Words set side by side are joined by place value, the left one most significant. -/
theorem toNat_append_eq_add {v w : Nat} (x : BitVec v) (y : BitVec w) :
    (x ++ y).toNat = x.toNat * 2 ^ w + y.toNat := by
  rw [BitVec.toNat_append, ← Nat.shiftLeft_add_eq_or_of_lt y.isLt, Nat.shiftLeft_eq]

/-- The HomeID of a payload is the word its bytes 1 to 4 make, the NodeID its byte 5 (R62, R205, R214). -/
theorem homeNodeOf_cons (op a b c d n : Byte) (rest : List Byte) :
    homeNodeOf (op :: a :: b :: c :: d :: n :: rest) = some (a ++ b ++ c ++ d, n) := rfl

/-- The place values of the four bytes of a HomeID (R62). -/
theorem toNat_four_bytes (a b c d : Byte) :
    (a ++ b ++ c ++ d).toNat = a.toNat * 2 ^ 24 + b.toNat * 2 ^ 16 + c.toNat * 2 ^ 8 + d.toNat := by
  simp only [toNat_append_eq_add]
  omega

/-- Settles O45: an address by its fields and by its bytes, and the HomeID by place values. -/
theorem multiByteValuesAreBigEndian : Obligations.MultiByteValuesAreBigEndian :=
  ⟨addrBytes_eq_extractLsb', addrBytes_addr24, fun op a b c d n rest =>
    ⟨a ++ b ++ c ++ d, homeNodeOf_cons op a b c d n rest, toNat_four_bytes a b c d⟩⟩

end Sys2Proof.Machine
end

section
/-! PROOF. FrameCodec: the answer of `checksum` and the laws of its fold (R110). -/

namespace Sys2Proof.Machine

/-- The meaning of `checksum`: an answer in every state (R110). -/
theorem exec_checksum (xs : List Byte) (s : State) :
    exec (.checksum xs) s = .next (answer (.ok (.byte (checksumOf xs))) s) := rfl

/-- Adjacent bytes may change places under any seed, so the order of the bytes does not matter (R110). -/
theorem foldXor_eq_of_perm {xs ys : List Byte} (h : xs.Perm ys) : ∀ seed, foldXor seed xs = foldXor seed ys := by
  induction h with
  | nil => intro seed; rfl
  | cons x _ ih => intro seed; exact ih (seed ^^^ x)
  | swap x y zs =>
    intro seed
    have hxy : seed ^^^ y ^^^ x = seed ^^^ x ^^^ y := by
      rw [BitVec.xor_assoc, BitVec.xor_comm y x, ← BitVec.xor_assoc]
    exact congrArg (foldXor · zs) hxy
  | trans _ _ ihxy ihyz => intro seed; exact (ihxy seed).trans (ihyz seed)

/-- Two equal bytes leave any seed as it was (R110). -/
theorem foldXor_pair_self (seed a : Byte) : foldXor seed [a, a] = seed := by
  rw [foldXor, foldXor, foldXor, BitVec.xor_assoc, BitVec.xor_self, BitVec.xor_zero]

/-- Settles O1: the answer by the fold, and the laws of the fold. -/
theorem checksumAnswersTheXorFold : Obligations.ChecksumAnswersTheXorFold :=
  ⟨fun xs s => by rw [exec_checksum, checksumOf_eq_foldl, answer], rfl,
    fun _ _ h => foldXor_eq_of_perm h _, foldXor_pair_self _, checksumOf_append_self⟩

end Sys2Proof.Machine
end

section
/-! PROOF. Decoding: from the image of an instruction to the instruction, and from bytes that decode to the image (R81, R84,
R85, R97, R200 to R213). -/

namespace Sys2Proof

/-- An offset's bytes after opcode 0x2A are joined again (R62, R207). -/
theorem commandRead_addrBytes (op : Byte) (a : Addr24) (x y : Byte) :
    commandRead op (addrBytes a ++ [x, y]) = .ok (.nvmExtRead a x y) := by
  simp only [addrBytes, List.cons_append, List.nil_append, commandRead, joinAddr_addrBytes]

/-- An offset's bytes after opcode 0x2B are joined again (R62, R208). -/
theorem commandWriteRange_addrBytes (op : Byte) (a : Addr24) (rest : List Byte) :
    commandWriteRange op (addrBytes a ++ rest) = .ok (.nvmExtWriteRange a rest) := by
  simp only [addrBytes, List.cons_append, List.nil_append, commandWriteRange, joinAddr_addrBytes]

/-- An offset's bytes after opcode 0x2D are joined again (R62, R209). -/
theorem commandWriteByte_addrBytes (op : Byte) (a : Addr24) (v : Byte) :
    commandWriteByte op (addrBytes a ++ [v]) = .ok (.nvmExtWriteByte a v) := by
  simp only [addrBytes, List.cons_append, List.nil_append, commandWriteByte, joinAddr_addrBytes]

/-- A payload of the length LEN announces is the one the frame is read with (R81, R83). -/
theorem length_eq_of_frameFits {b : LenBias} {len : Byte} {p : List Byte} (h : frameFits b len p = true) :
    p.length = follow b len - 2 := by
  simpa [frameFits] using h

/-- Settles O6: frames by their LEN, offsets by their three bytes, and every other image as it is written. -/
theorem decodingAnImageGivesTheInstruction : Obligations.DecodingAnImageGivesTheInstruction := by
  intro b i hw
  cases i
  case request => exact decodeLink_frame (length_eq_of_frameFits hw) (.inl rfl)
  case response => exact decodeLink_frame (length_eq_of_frameFits hw) (.inr rfl)
  case nvmExtRead a x y => exact commandRead_addrBytes 0x2A#8 a x y
  case nvmExtWriteRange a rest => exact commandWriteRange_addrBytes 0x2B#8 a rest
  case nvmExtWriteByte a v => exact commandWriteByte_addrBytes 0x2D#8 a v
  all_goals rfl

/-! ### The other direction -/

/-- A list is what is taken of it, the byte after that, and the rest. -/
theorem eq_take_append_of_drop_eq_cons {xs left : List Byte} {n : Nat} {x : Byte} (h : xs.drop n = x :: left) :
    xs = xs.take n ++ x :: left ∧ (xs.take n).length = n := by
  have hn : n < xs.length := by
    rw [← Nat.not_le, ← List.drop_eq_nil_iff, h]
    exact List.cons_ne_nil _ _
  exact ⟨by rw [← h, List.take_append_drop], by simp [Nat.le_of_lt hn]⟩

/-- The bytes after a `SOF` decode to the unit that they are the bytes of (R81, R83, R97). -/
theorem image_of_decodeFrame {b : LenBias} {bytes left : List Byte} {i : Instr}
    (h : decodeFrame b bytes = .ok (i, left)) :
    ∃ bs, imageOf i = .link bs ∧ Config.sof :: bytes = bs ++ left ∧ wellFormed b i = true := by
  unfold decodeFrame at h
  split at h
  · obtain ⟨rfl, rfl⟩ := Prod.mk.inj (Except.ok.inj h)
    exact ⟨_, rfl, rfl, rfl⟩
  · exact nomatch h
  · rename_i len ty more
    split at h
    · rename_i hty
      split at h
      · exact nomatch h
      · rename_i chk rest hdrop
        obtain ⟨hmore, hlen⟩ := eq_take_append_of_drop_eq_cons hdrop
        have hbytes : Config.sof :: len :: ty :: more =
            frameBytes len ty (more.take (follow b len - 2)) chk ++ rest := by
          simpa [frameBytes] using hmore
        have hfits : frameFits b len (more.take (follow b len - 2)) = true := beq_iff_eq.2 hlen
        split at h
        · rename_i hreq
          obtain ⟨rfl, rfl⟩ := Prod.mk.inj (Except.ok.inj h)
          exact ⟨_, rfl, hreq ▸ hbytes, hfits⟩
        · rename_i hreq
          obtain ⟨rfl, rfl⟩ := Prod.mk.inj (Except.ok.inj h)
          exact ⟨_, rfl, hty.resolve_left hreq ▸ hbytes, hfits⟩
    · exact nomatch h

/-- The unit at the front of a run of link bytes is the unit those bytes are the image of (R80, R88). -/
theorem image_of_decodeUnit {b : LenBias} {bytes left : List Byte} {i : Instr}
    (h : decodeUnit b bytes = .ok (i, left)) :
    ∃ bs, imageOf i = .link bs ∧ bytes = bs ++ left ∧ wellFormed b i = true := by
  unfold decodeUnit at h
  split at h
  · exact nomatch h
  · rename_i x rest
    by_cases hsof : x = Config.sof
    · rw [if_pos hsof] at h
      subst hsof
      exact image_of_decodeFrame h
    rw [if_neg hsof] at h
    by_cases hack : x = Config.ack
    · rw [if_pos hack] at h
      obtain ⟨rfl, rfl⟩ := Prod.mk.inj (Except.ok.inj h)
      exact ⟨[Config.ack], rfl, congrArg (· :: _) hack, rfl⟩
    rw [if_neg hack] at h
    by_cases hnak : x = Config.nak
    · rw [if_pos hnak] at h
      obtain ⟨rfl, rfl⟩ := Prod.mk.inj (Except.ok.inj h)
      exact ⟨[Config.nak], rfl, congrArg (· :: _) hnak, rfl⟩
    rw [if_neg hnak] at h
    by_cases hcan : x = Config.can
    · rw [if_pos hcan] at h
      obtain ⟨rfl, rfl⟩ := Prod.mk.inj (Except.ok.inj h)
      exact ⟨[Config.can], rfl, congrArg (· :: _) hcan, rfl⟩
    · rw [if_neg hcan] at h
      exact nomatch h

/-- Link bytes that decode are a whole unit, the image of the instruction (R80). -/
theorem image_of_decodeLink {b : LenBias} {bytes : List Byte} {i : Instr} (h : decodeLink b bytes = .ok i) :
    imageOf i = .link bytes ∧ wellFormed b i = true := by
  unfold decodeLink at h
  split at h
  · rename_i hu
    obtain rfl := Except.ok.inj h
    obtain ⟨bs, hi, rfl, hw⟩ := image_of_decodeUnit hu
    exact ⟨by rw [hi, List.append_nil], hw⟩
  · exact nomatch h
  · exact nomatch h

/-- Payload bytes that decode are the image of the command (R94). -/
theorem image_of_decodeCommand {payload : List Byte} {i : Instr} (h : decodeCommand payload = .ok i) :
    imageOf i = .command payload := by
  cases payload with
  | nil => exact nomatch h
  | cons op args => exact decodeOpcode_ok h

/-- Settles O7: units by their bytes, commands by their opcode and arguments. -/
theorem decodedBytesAreTheImage : Obligations.DecodedBytesAreTheImage :=
  fun _ _ _ => ⟨image_of_decodeLink, image_of_decodeCommand⟩

/-- Settles O8: the nine words, each read by the decoder. -/
theorem wordsOfTheSpecDecode : Obligations.WordsOfTheSpecDecode :=
  ⟨rfl, rfl, rfl, rfl, rfl, rfl, rfl, rfl, rfl⟩

end Sys2Proof
end

section
/-! PROOF. FrameCodec: what `encode` and `decode` answer (R110 to R118). -/

namespace Sys2Proof.Machine

/-- `encode` inside its domain (R112). -/
theorem exec_encode_of_le {t : Byte} {p : List Byte} {s : State} (h : p.length ≤ maxPayload s.par.lenBias) :
    exec (.encode t p) s = .next (answer (.ok (.bytes
      (frameBytes (lenByte s.par.lenBias p.length) t p (frameChecksum s.par.lenBias t p)))) s) := by
  simp only [exec, execEncode, encodeFrame_of_le h]

/-- `encode` outside its domain (R111). -/
theorem exec_encode_of_lt {t : Byte} {p : List Byte} {s : State} (h : maxPayload s.par.lenBias < p.length) :
    exec (.encode t p) s = .next (refuse s) := by
  simp only [exec, execEncode, encodeFrame_of_lt h]

/-- `decode` answers in every state (R114). -/
theorem exec_decode (raw : List Byte) (s : State) :
    exec (.decode raw) s = .next (answer (decodeRaw s.par.lenBias raw) s) := rfl

/-- Settles O2: the frame of a payload that fits, LEN without wrap. -/
theorem encodeAnswersTheFrame : Obligations.EncodeAnswersTheFrame := by
  intro t p s h
  refine ⟨lenByte s.par.lenBias p.length, frameChecksum s.par.lenBias t p, ?_, lenByte_toNat h, checksumOf_eq_foldl _⟩
  rw [exec_encode_of_le h]
  rfl

/-! ### The tests of decode, in their order (R115) -/

/-- Fewer bytes than LEN announces. -/
theorem decodeRaw_of_short {b : LenBias} {len : Byte} {rest : List Byte} (h : rest.length < follow b len) :
    decodeRaw b (len :: rest) = .err .truncated rest := by
  simp [decodeRaw, h]

/-- A whole body. -/
theorem decodeRaw_of_whole {b : LenBias} {len : Byte} {rest : List Byte} (h : follow b len ≤ rest.length) :
    decodeRaw b (len :: rest) = decodeBody len (rest.take (follow b len)) := by
  simp [decodeRaw, Nat.not_lt.2 h]

/-- A body whose fold is not zero. -/
theorem decodeBody_of_mismatch {len : Byte} {body : List Byte} (h : checksumOf (len :: body) ≠ 0x00#8) :
    decodeBody len body = .err .checksumMismatch body := by
  simp [decodeBody, h]

/-- A body that has no room for TYPE and CHECKSUM. -/
theorem decodeBody_of_tooShort {len : Byte} {body : List Byte} (h : checksumOf (len :: body) = 0x00#8)
    (hl : body.length < 2) : decodeBody len body = .err .tooShort body := by
  simp [decodeBody, h, hl]

/-- The payload of a body is what stands between TYPE and CHECKSUM (R116). -/
theorem payloadOfBody_append (t chk : Byte) (p : List Byte) : payloadOfBody (t :: p ++ [chk]) = p := by
  simp [payloadOfBody]

/-- A body that passes every test. -/
theorem decodeBody_of_frame {len t chk : Byte} {p : List Byte} (h : checksumOf (len :: (t :: p ++ [chk])) = 0x00#8) :
    decodeBody len (t :: p ++ [chk]) = .ok (.frame t p (1 + (t :: p ++ [chk]).length)) := by
  rw [decodeBody, if_neg (not_not_intro h), if_neg (by simp), payloadOfBody_append]
  rfl

/-- A body of two bytes or more has a TYPE, a payload and a CHECKSUM (R116). -/
theorem exists_type_payload_checksum {body : List Byte} (h : 2 ≤ body.length) : ∃ t p chk, body = t :: p ++ [chk] := by
  match body, h with
  | t :: x :: rest, _ =>
    exact ⟨t, (x :: rest).dropLast, (x :: rest).getLast (by simp), by
      rw [List.cons_append, List.dropLast_concat_getLast]⟩

/-- Settles O3: truncated, then mismatch, then too short, then the frame. -/
theorem decodeAnswersByItsTests : Obligations.DecodeAnswersByItsTests := by
  refine ⟨fun s => exec_decode [] s, fun len rest s => ⟨decodeRaw s.par.lenBias (len :: rest), exec_decode _ s, ?_⟩⟩
  intro k body fold
  have hk : follow s.par.lenBias len = k := rfl
  have hfold : checksumOf (len :: body) = fold := checksumOf_eq_foldl _
  refine ⟨fun h => decodeRaw_of_short h, fun h hf => ?_, fun h hf hk2 => ?_, fun h hf hk2 => ?_⟩ <;>
    rw [decodeRaw_of_whole h, hk]
  · exact decodeBody_of_mismatch (hfold ▸ hf)
  · exact decodeBody_of_tooShort (hfold.trans hf) (Nat.lt_of_le_of_lt (List.length_take_le k rest) hk2)
  · have hlen : body.length = k := List.length_take_of_le h
    obtain ⟨t, p, chk, hbody⟩ := exists_type_payload_checksum (hlen ▸ hk2)
    refine ⟨t, p, chk, hbody, ?_⟩
    rw [← hlen, show rest.take body.length = body by rw [hlen], hbody]
    exact decodeBody_of_frame (hbody ▸ hfold.trans hf)

/-- The bytes of a frame behind its `SOF` and LEN are as many as LEN announces (R83). -/
theorem follow_frame {b : LenBias} {t chk : Byte} {p : List Byte} (h : p.length ≤ maxPayload b) :
    follow b (lenByte b p.length) = (t :: p ++ [chk]).length := by
  rw [follow_lenByte h]
  simp

/-- Settles O4: the frame folds to zero, and its bytes after `SOF` are LEN and a whole body. -/
theorem decodeInvertsEncode : Obligations.DecodeInvertsEncode := by
  intro t p s h
  have hfold := frame_folds_to_zero s.par.lenBias t p
  refine ⟨_, exec_encode_of_le h, hfold, ?_⟩
  have hk := follow_frame (t := t) (chk := frameChecksum s.par.lenBias t p) h
  have hd : decodeRaw s.par.lenBias (lenByte s.par.lenBias p.length :: (t :: p ++ [frameChecksum s.par.lenBias t p])) =
      .ok (.frame t p (p.length + 3)) := by
    rw [decodeRaw_of_whole (Nat.le_of_eq hk), hk, List.take_length, decodeBody_of_frame hfold]
    simp only [List.length_append, List.length_cons, List.length_nil, Nat.add_comm 1]
  rw [exec_decode]
  exact congrArg (fun r => Host.Outcome.next (answer r s)) hd

/-! ### One corrupt byte (R118) -/

/-- Two seeds that fold to the same byte are equal. -/
theorem foldXor_injective (xs : List Byte) : Function.Injective fun a => foldXor a xs := by
  induction xs with
  | nil => exact fun _ _ h => h
  | cons x xs ih => exact fun a b h => (BitVec.xor_left_inj x).1 (ih h)

/-- Another byte in one place gives another fold. -/
theorem foldXor_set_ne (xs : List Byte) (v : Byte) : ∀ (i : Nat) (a : Byte), i < xs.length → xs[i]? ≠ some v →
    foldXor a (xs.set i v) ≠ foldXor a xs := by
  induction xs with
  | nil => intro i a hi; exact absurd hi (Nat.not_lt_zero i)
  | cons x xs ih =>
    intro i a hi hv
    cases i with
    | zero =>
      intro hf
      have hx : v = x := (BitVec.xor_right_inj a).1 (foldXor_injective xs hf)
      simp [hx] at hv
    | succ i =>
      simp only [List.length_cons, Nat.add_lt_add_iff_right] at hi
      exact ih i (a ^^^ x) hi (by simpa using hv)

/-- A frame that `encode` builds: `SOF`, LEN, and a body of the length LEN announces that folds to zero with it. -/
theorem exists_body_of_encodeFrame {b : LenBias} {t : Byte} {p f : List Byte} (h : encodeFrame b t p = some f) :
    ∃ len body, f = Config.sof :: len :: body ∧ follow b len = body.length ∧ checksumOf (len :: body) = 0x00#8 := by
  by_cases hp : p.length ≤ maxPayload b
  · rw [encodeFrame_of_le hp] at h
    exact ⟨_, _, (Option.some.inj h).symm, follow_frame hp, frame_folds_to_zero b t p⟩
  · rw [encodeFrame_of_lt (Nat.not_le.1 hp)] at h
    exact nomatch h

/-- Settles O5: the changed body still has the length LEN announces, and no longer folds to zero. -/
theorem oneCorruptByteIsDetected : Obligations.OneCorruptByteIsDetected := by
  intro t p f i v s hf h2 hi hv
  obtain ⟨len, body, rfl, hk, hfold⟩ := exists_body_of_encodeFrame hf
  obtain ⟨j, rfl⟩ := Nat.exists_eq_add_of_le' h2
  have hj : j < body.length := by simpa using hi
  have hne : checksumOf (len :: body.set j v) ≠ 0x00#8 :=
    hfold ▸ foldXor_set_ne body v j _ hj (by simpa using hv)
  have hlen : follow s.par.lenBias len = (body.set j v).length := by rw [hk, List.length_set]
  have hd : decodeRaw s.par.lenBias (len :: body.set j v) = .err .checksumMismatch (body.set j v) := by
    rw [decodeRaw_of_whole (Nat.le_of_eq hlen), hlen, List.take_length, decodeBody_of_mismatch hne]
  rw [exec_decode]
  exact congrArg (fun r => Host.Outcome.next (answer r s)) hd

end Sys2Proof.Machine
end

section
/-! PROOF. The units on the link: their arrival, and what one byte does in each phase (R51, R84, R85, R89). -/

namespace Sys2Proof.Machine

/-- An instruction with a link image is a unit, and executing it is the arrival of its bytes (R51, R89). -/
theorem exec_of_link {i : Instr} {bs : List Byte} (h : imageOf i = .link bs) (s : State) :
    exec i s = receiveUnit bs s := by
  cases i <;> cases h <;> rfl

/-- The six units have link images (R80). -/
theorem imageOf_unit {i : Instr}
    (h : i = .sof ∨ i = .ack ∨ i = .nak ∨ i = .can ∨ (∃ l p c, i = .request l p c) ∨ (∃ l p c, i = .response l p c)) :
    imageOf i = .link (instrBytes i) := by
  rcases h with rfl | rfl | rfl | rfl | ⟨_, _, _, rfl⟩ | ⟨_, _, _, rfl⟩ <;> rfl

/-- A frame of either type on the link (R81, R85). -/
theorem imageOf_frame {i : Instr} {len ty chk : Byte} {p : List Byte}
    (h : (i = .request len p chk ∧ ty = 0x00#8) ∨ (i = .response len p chk ∧ ty = 0x01#8)) :
    imageOf i = .link (frameBytes len ty p chk) := by
  rcases h with ⟨rfl, rfl⟩ | ⟨rfl, rfl⟩ <;> rfl

/-- An arrival past the capacity stops (R52). -/
theorem receiveUnit_of_full {bs : List Byte} {s : State} (h : roomFor bs.length s = false) :
    receiveUnit bs s = .fault .rxOverflow := by
  rw [receiveUnit, deliver_of_full h]
  rfl

/-- A finite capacity leaves no room exactly when it is exceeded (R52). -/
theorem roomFor_eq_false {n c : Nat} {s : State} (hc : s.par.rxCapacity = some c) (h : c < s.rxq.length + n) :
    roomFor n s = false := by
  simp [roomFor, hc, h]

/-- Where nothing is read an arrival is a peer step (R89). -/
theorem receiveUnit_of_not_reads {bs : List Byte} {s : State} (hroom : roomFor bs.length s = true)
    (hr : s.phase.reads = false) : receiveUnit bs s = .next { s with rxq := s.rxq ++ bs } := by
  rw [receiveUnit_of_room hroom]
  exact congrArg Host.Outcome.next (readQueued_of_not_reads (s := { s with rxq := s.rxq ++ bs }) hr _)

/-- An arrival on an empty queue where bytes are read: the first byte is read, then as many more as arrived. -/
theorem receiveUnit_cons {x : Byte} {xs : List Byte} {s : State} (hroom : roomFor (x :: xs).length s = true)
    (hr : s.phase.reads = true) (hq : s.rxq = []) :
    receiveUnit (x :: xs) s = .next (readQueued xs.length (react x (rxTake x xs s))) := by
  rw [receiveUnit_of_room hroom]
  simp only [List.length_cons, readQueued, hr, if_true, hq, List.nil_append, rxTake]

/-- A sentinel that arrives on an empty queue where bytes are read is one byte read (R84, R89). -/
theorem exec_sentinel {i : Instr} {x : Byte} {s : State} (hi : imageOf i = .link [x]) (hq : s.rxq = [])
    (hc : ∀ c ∈ s.par.rxCapacity, 1 ≤ c) (hr : s.phase.reads = true) :
    exec i s = .next (react x (rxTake x s.rxq s)) := by
  have hroom : roomFor [x].length s = true := (roomFor_iff _ s).2 fun c h => by
    rw [hq, List.length_nil, Nat.zero_add]
    exact hc c h
  rw [exec_of_link hi, receiveUnit_cons hroom hr hq, hq]
  rfl

/-- A frame is four bytes longer than its payload (R81). -/
theorem length_frameBytes (len ty chk : Byte) (p : List Byte) : (frameBytes len ty p chk).length = p.length + 4 := by
  simp only [frameBytes, List.length_cons, List.length_append, List.length_nil]

/-- There is room for a frame on an empty queue whose capacity it does not exceed (R52, R81). -/
theorem roomFor_frame {len ty chk : Byte} {p : List Byte} {s : State} (hq : s.rxq = [])
    (hc : ∀ c ∈ s.par.rxCapacity, p.length + 4 ≤ c) : roomFor (frameBytes len ty p chk).length s = true :=
  (roomFor_iff _ s).2 fun c h => by
    rw [hq, List.length_nil, Nat.zero_add, length_frameBytes]
    exact hc c h

/-! ### What the byte taken does, phase by phase (R89) -/

section
variable {s : State} (b : Byte) (q : List Byte)

theorem react_syncOnly (h : s.phase = .syncOnly) : react b (rxTake b q s) = onSyncOnly b (rxTake b q s) := by
  simp only [react, rxTake_phase, h]
theorem react_recvSync (h : s.phase = .recvSync) : react b (rxTake b q s) = onRecvSync b (rxTake b q s) := by
  simp only [react, rxTake_phase, h]
theorem react_recvLen (h : s.phase = .recvLen) : react b (rxTake b q s) = onRecvLen b (rxTake b q s) := by
  simp only [react, rxTake_phase, h]
theorem react_recvBody (h : s.phase = .recvBody) : react b (rxTake b q s) = onRecvBody b (rxTake b q s) := by
  simp only [react, rxTake_phase, h]
theorem react_sendWait1 (h : s.phase = .sendWait1) : react b (rxTake b q s) = onSendWait1 b (rxTake b q s) := by
  simp only [react, rxTake_phase, h]
theorem react_sendWait2T (h : s.phase = .sendWait2T) :
    react b (rxTake b q s) = onSendWait2 .afterTimeout b (rxTake b q s) := by
  simp only [react, rxTake_phase, h]
theorem react_sendWait2N (h : s.phase = .sendWait2N) :
    react b (rxTake b q s) = onSendWait2 .afterNonAck b (rxTake b q s) := by
  simp only [react, rxTake_phase, h]

end

/-- A byte that is not `ACK` starts the back-off in the first wait: one `ACK` is written (R156). -/
theorem onSendWait1_of_ne {b : Byte} (hb : b ≠ Config.ack) (s : State) :
    onSendWait1 b s = { s with
      phase := .sendBackoff
      pend := s.pend.map fun p => { p with deadline := s.now + 1000 }
      txlog := s.txlog ++ [0x06#8]
      events := s.events ++ [.write [0x06#8]] } := by
  rw [onSendWait1, if_neg hb]
  rfl

/-- A byte that is not `ACK` fails the send in a second wait (R158, R159). -/
theorem onSendWait2_of_ne {b : Byte} (hb : b ≠ Config.ack) (path : SendPath) (s : State) :
    onSendWait2 path b s = finishOp (.err .noAcknowledgment []) s := by
  rw [onSendWait2, if_neg hb]

/-- FOLLOW is zero only for LEN 0 under bias 2 (R83). -/
theorem follow_eq_zero_iff (b : LenBias) (len : Byte) : follow b len = 0 ↔ len.toNat + 2 = b.toNat := by
  have hb := lenBias_cases b
  rw [follow]
  omega

/-- A LEN that announces a body (R135). -/
theorem onRecvLen_of_ne {len : Byte} {s : State} (h : follow s.par.lenBias len ≠ 0) :
    onRecvLen len s = { s with
      rxLen := len, rxBuf := [], byteDeadline := bodyDeadline s, phase := .recvBody } := by
  rw [onRecvLen, if_neg h]

/-! ### Units where nothing is read, and past the capacity -/

/-- Settles O9: there the arrival is the append alone. -/
theorem unitsWaitWhenNoPhaseReads : Obligations.UnitsWaitWhenNoPhaseReads := by
  intro i s hi hp hc
  have hr : s.phase.reads = false := by rcases hp with h | h | h | h <;> rw [h] <;> rfl
  rw [exec_of_link (imageOf_unit hi), receiveUnit_of_not_reads ((roomFor_iff _ s).2 hc) hr]

/-- Settles O17: an append with room, the fault without. -/
theorem peerStepAppendsWithinCapacity : Obligations.PeerStepAppendsWithinCapacity := by
  refine ⟨fun bytes rest s hs hc => ?_, fun i bytes rest c s hi hc => ⟨fun h => ?_, fun hs h => ?_⟩⟩
  · rw [step_of_sched hs]
    exact deliver_of_room (s := { s with sched := rest }) ((roomFor_iff _ s).2 hc)
  · rw [exec_of_link (imageOf_unit hi), receiveUnit_of_full (roomFor_eq_false hc h)]
  · rw [step_of_sched hs]
    exact deliver_of_full (s := { s with sched := rest }) (roomFor_eq_false (s := s) hc h)

/-! ### Sentinels in a handshake wait, a hunt and a body -/

/-- Settles O10: by the three waits. -/
theorem ackEndsAHandshakeWait : Obligations.AckEndsAHandshakeWait := by
  intro s n path hq hc hp
  have hr : s.phase.reads = true := by rcases hp with ⟨h, -⟩ | ⟨h, -⟩ | ⟨h, -⟩ <;> rw [h] <;> rfl
  rw [exec_sentinel (i := .ack) rfl hq hc hr]
  rcases hp with ⟨h, rfl, rfl⟩ | ⟨h, rfl, rfl⟩ | ⟨h, rfl, rfl⟩
  · rw [react_sendWait1 _ _ h]; rfl
  · rw [react_sendWait2T _ _ h]; rfl
  · rw [react_sendWait2N _ _ h]; rfl

/-- Settles O11: the back-off in the first wait, the failure in a second one. -/
theorem nonAckRetriesOnceThenFails : Obligations.NonAckRetriesOnceThenFails := by
  intro i x s hx hq hc
  have hi : imageOf i = .link [x] := by rcases hx with ⟨rfl, rfl⟩ | ⟨rfl, rfl⟩ | ⟨rfl, rfl⟩ <;> rfl
  have hne : x ≠ Config.ack := by rcases hx with ⟨-, rfl⟩ | ⟨-, rfl⟩ | ⟨-, rfl⟩ <;> decide
  refine ⟨fun p h hp => ?_, fun h => ?_⟩
  · rw [exec_sentinel hi hq hc (by rw [h]; rfl), react_sendWait1 _ _ h, onSendWait1_of_ne hne]
    simp [hp]
  · rw [exec_sentinel hi hq hc (by rcases h with h | h <;> rw [h] <;> rfl)]
    rcases h with h | h
    · rw [react_sendWait2T _ _ h, onSendWait2_of_ne hne]; rfl
    · rw [react_sendWait2N _ _ h, onSendWait2_of_ne hne]; rfl

/-- Settles O12: `SOF` in each of the two hunts. -/
theorem sofEndsTheHunt : Obligations.SofEndsTheHunt := by
  refine fun s hq hc => ⟨fun h => ?_, fun h => ?_⟩ <;>
    rw [exec_sentinel (i := .sof) rfl hq hc (by rw [h]; rfl)]
  · rw [react_syncOnly _ _ h]; rfl
  · rw [react_recvSync _ _ h]; rfl

/-- Settles O13: a byte other than `SOF` leaves a hunt as it is. -/
theorem otherSentinelsAreDiscardedInAHunt : Obligations.OtherSentinelsAreDiscardedInAHunt := by
  intro i x s hx hp hq hc
  have hi : imageOf i = .link [x] := by rcases hx with ⟨rfl, rfl⟩ | ⟨rfl, rfl⟩ | ⟨rfl, rfl⟩ <;> rfl
  have hne : x ≠ Config.sof := by rcases hx with ⟨-, rfl⟩ | ⟨-, rfl⟩ | ⟨-, rfl⟩ <;> decide
  rw [exec_sentinel hi hq hc (by rcases hp with h | h <;> rw [h] <;> rfl)]
  rcases hp with h | h
  · rw [react_syncOnly _ _ h, onSyncOnly, if_neg hne]; rfl
  · rw [react_recvSync _ _ h, onRecvSync, if_neg hne]; rfl

/-- Settles O14: LEN in `RecvLen`, a body byte in `RecvBody`. -/
theorem sentinelValuesInsideAFrameAreData : Obligations.SentinelValuesInsideAFrameAreData := by
  intro i x s hx hq hc
  have hi : imageOf i = .link [x] := by rcases hx with ⟨rfl, rfl⟩ | ⟨rfl, rfl⟩ | ⟨rfl, rfl⟩ | ⟨rfl, rfl⟩ <;> rfl
  have hx1 : 1 ≤ x.toNat := by rcases hx with ⟨-, rfl⟩ | ⟨-, rfl⟩ | ⟨-, rfl⟩ | ⟨-, rfl⟩ <;> decide
  have hfollow : follow s.par.lenBias x ≠ 0 := by
    have hb := lenBias_cases s.par.lenBias
    rw [ne_eq, follow_eq_zero_iff]
    omega
  refine ⟨fun h => ?_, fun h hl => ?_, fun h hl => ?_⟩ <;>
    rw [exec_sentinel hi hq hc (by rw [h]; rfl)]
  · rw [react_recvLen _ _ h]
    exact congrArg Host.Outcome.next (onRecvLen_of_ne hfollow)
  · rw [react_recvBody _ _ h]
    exact congrArg Host.Outcome.next (if_pos hl)
  · rw [react_recvBody _ _ h]
    exact congrArg Host.Outcome.next (if_neg hl)

/-! ### Frames -/

/-- One byte of several that are read. -/
theorem readQueued_succ {s : State} {b : Byte} {q : List Byte} (hr : s.phase.reads = true) (hq : s.rxq = b :: q)
    (n : Nat) : readQueued (n + 1) s = readQueued n (react b (rxTake b q s)) := by
  simp only [readQueued, hr, if_true, hq]

/-- LEN and the body it announces, read whole (R135, R136). -/
theorem readQueued_len_body {s : State} {len : Byte} {body q : List Byte} (hp : s.phase = .recvLen)
    (hq : s.rxq = len :: (body ++ q)) (hne : body ≠ []) (hl : body.length = follow s.par.lenBias len) :
    readQueued (body.length + 1) s = { s with
      phase := .recvAck
      byteDeadline := bodyDeadline s
      rxLen := len
      rxBuf := body
      rxq := q
      events := s.events ++ (len :: body).map .read } := by
  have hfollow : follow (rxTake len (body ++ q) s).par.lenBias len ≠ 0 := fun h =>
    hne (List.eq_nil_of_length_eq_zero (hl.trans h))
  rw [readQueued_succ (by rw [hp]; rfl) hq, react_recvLen _ _ hp, onRecvLen_of_ne hfollow,
    readQueued_body body q _ rfl hne rfl (by simpa using hl) rfl]
  simp [bodyDeadline]

/-- `SOF` ends the hunt of a `receiveFrame` (R134). -/
theorem react_sof_recvSync {s : State} (q : List Byte) (h : s.phase = .recvSync) :
    react Config.sof (rxTake Config.sof q s) =
      { rxTake Config.sof q s with phase := .recvLen, byteDeadline := bodyDeadline s } := by
  rw [react_recvSync _ _ h, onRecvSync, if_pos rfl]
  rfl

/-- Settles O15: `SOF` ends the hunt, LEN announces the body, and the body is read whole. -/
theorem frameArrivingInAHuntIsReadWhole : Obligations.FrameArrivingInAHuntIsReadWhole := by
  intro i len ty chk p s hi hlen hp hq hc
  have hbody : (ty :: p ++ [chk]).length = follow s.par.lenBias len := by
    rw [follow, ← hlen]
    simp
  rw [exec_of_link (imageOf_frame hi), frameBytes, receiveUnit_cons (roomFor_frame hq hc) (by rw [hp]; rfl) hq,
    react_sof_recvSync _ hp]
  refine congrArg Host.Outcome.next ((readQueued_len_body
    (s := { rxTake Config.sof (len :: (ty :: p ++ [chk])) s with phase := .recvLen, byteDeadline := bodyDeadline s })
    (body := ty :: p ++ [chk]) (q := []) rfl (by simp) (by simp) hbody).trans ?_)
  simp [bodyDeadline, hq, Config.sof]

/-- Settles O16: the first byte is not `ACK`, and after it nothing is read. -/
theorem frameInAHandshakeWaitIsNotReceived : Obligations.FrameInAHandshakeWaitIsNotReceived := by
  intro i len ty chk p s hi hq hc
  have hne : Config.sof ≠ Config.ack := by decide
  refine ⟨fun h => ?_, fun h => ?_⟩
  · rw [exec_of_link (imageOf_frame hi), frameBytes, receiveUnit_cons (roomFor_frame hq hc) (by rw [h]; rfl) hq,
      react_sendWait1 _ _ h, onSendWait1_of_ne hne, readQueued_of_not_reads rfl]
    simp [Config.sof]
  · rw [exec_of_link (imageOf_frame hi), frameBytes,
      receiveUnit_cons (roomFor_frame hq hc) (by rcases h with h | h <;> rw [h] <;> rfl) hq]
    rcases h with h | h
    · rw [react_sendWait2T _ _ h, onSendWait2_of_ne hne, readQueued_of_not_reads rfl]; rfl
    · rw [react_sendWait2N _ _ h, onSendWait2_of_ne hne, readQueued_of_not_reads rfl]; rfl

/-- Settles O30: the reads of an arrival are a run of Transport's moves. -/
theorem unitArrivalIsAPeerStepThenReads : Obligations.UnitArrivalIsAPeerStepThenReads := by
  intro i s hi hc
  obtain ⟨n, hn, hall, hrun⟩ := run_readQueued (instrBytes i).length { s with rxq := s.rxq ++ instrBytes i } (by simp)
  refine ⟨n, _, hn, ?_, fun h => .inr (hall h), hrun⟩
  rw [exec_of_link (imageOf_unit hi), receiveUnit_of_room ((roomFor_iff _ s).2 hc)]

end Sys2Proof.Machine
end

section
/-! PROOF. The steps of Transport, one phase at a time (R134 to R137, R153 to R159). -/

namespace Sys2Proof.Machine

/-! ### The steps that write the frame, field by field -/

/-- The step in `SendStart`: the drain, one `ACK` when it found bytes, the frame, and the wait of 500 ms (R153). -/
theorem startSend_eq (s : State) : startSend s = { s with
    phase := .sendWait1
    pend := s.pend.map fun p => { p with attempts := 1, deadline := s.now + 500 }
    hadStale := decide (s.rxq ≠ [])
    rxq := []
    txlog := s.txlog ++ (if s.rxq = [] then [] else [0x06#8]) ++ pendFrame s
    events := s.events ++ [.drain s.rxq] ++ (if s.rxq = [] then [] else [.write [0x06#8]]) ++ [.write (pendFrame s)] } := by
  cases hq : s.rxq with
  | nil =>
    have hpre : preSend s = { rxDrain s with hadStale := false } := by simp [preSend, staleFlag, hq]
    simp [startSend, hpre, armWait, txPut, rxDrain, hq, Config.tAckFirst]
  | cons b q =>
    have hpre : preSend s = txAck { rxDrain s with hadStale := true } := by simp [preSend, staleFlag, hq]
    simp [startSend, hpre, armWait, txAck, txPut, rxDrain, hq, Config.tAckFirst, Config.ack]

/-- The end of the back-off: the drain, the frame, and a wait of 500 ms (R157). -/
theorem resumeSend_eq (s : State) : resumeSend s = { s with
    phase := .sendWait2N
    pend := s.pend.map fun p => { p with attempts := 2, deadline := s.now + 500 }
    rxq := []
    txlog := s.txlog ++ pendFrame s
    events := s.events ++ [.drain s.rxq, .write (pendFrame s)] } := by
  simp [resumeSend, armWait, txPut, rxDrain, Config.tAckRetryNonAck]

/-- The timeout of the first wait: one `ACK`, the frame, and a wait of 1500 ms (R155). -/
theorem onSendTimeout_eq (s : State) : onSendTimeout s = { s with
    phase := .sendWait2T
    pend := s.pend.map fun p => { p with attempts := 2, deadline := s.now + 1500 }
    txlog := s.txlog ++ 0x06#8 :: pendFrame s
    events := s.events ++ [.write [0x06#8], .write (pendFrame s)] } := by
  simp [onSendTimeout, armWait, txAck, txPut, Config.tAckRetryTimeout, Config.ack]

/-- The frame of the send in progress (R25). -/
theorem pendFrame_of_some {s : State} {p : Pending} (h : s.pend = some p) : pendFrame s = p.frame := by
  rw [pendFrame, h]

/-- The flag of a received frame is the test of its fold (R28, R87). -/
theorem chkFlag_iff (len : Byte) (body : List Byte) :
    chkFlag len body = true ↔ (len :: body).foldl (fun a x => a ^^^ x) 0xFF#8 = 0x00#8 := by
  rw [chkFlag, beq_iff_eq, checksumOf_eq_foldl]

/-! ### Moves of Transport's, by phase -/

section
variable {s : State} {rest : List Move}

/-- The move in `SendStart` (R153). -/
theorem step_sendStart (h : s.sched = .transport :: rest) (hp : s.phase = .sendStart) :
    step s = .next (startSend { s with sched := rest }) := by
  rw [step_transport h]
  simp only [transportStep, hp, Option.getD_some]

/-- The move in `RecvAck` (R137). -/
theorem step_recvAck (h : s.sched = .transport :: rest) (hp : s.phase = .recvAck) :
    step s = .next (finishReceive { s with sched := rest }) := by
  rw [step_transport h]
  simp only [transportStep, hp, Option.getD_some]

/-- The move at the end of the back-off (R157). -/
theorem step_sendBackoff (h : s.sched = .transport :: rest) (hp : s.phase = .sendBackoff) (he : expired s = true) :
    step s = .next (resumeSend { s with sched := rest }) := by
  have he' : expired { s with sched := rest } = true := he
  rw [step_transport h]
  simp only [transportStep, hp] at he' ⊢
  rw [if_pos he', Option.getD_some]

/-- The move at the deadline of a read on an empty queue (R53). -/
theorem step_timeout (h : s.sched = .transport :: rest) (hr : s.phase.reads = true) (hq : s.rxq = [])
    (he : expired s = true) : step s = .next (onTimeout (rxNone { s with sched := rest })) := by
  rw [step_transport h, transportStep_timeout (s := { s with sched := rest }) hr hq he]
  rfl

end

/-- Settles O24: the flag, one `ACK`, the body. -/
theorem receivedFrameIsAcknowledgedOnce : Obligations.ReceivedFrameIsAcknowledgedOnce :=
  fun _ s h hp => ⟨chkFlag s.rxLen s.rxBuf, chkFlag_iff _ _, step_recvAck h hp⟩

/-- Settles O25: on an empty queue and on another. -/
theorem sendStartDrainsAndWritesTheFrame : Obligations.SendStartDrainsAndWritesTheFrame := by
  intro rest p s h hp hs
  have hf : pendFrame { s with sched := rest } = p.frame := pendFrame_of_some (s := { s with sched := rest }) hs
  refine ⟨fun hq => ?_, fun hq => ?_⟩ <;> rw [step_sendStart h hp, startSend_eq, hf]
  · simp [hs, hq]
  · simp [hs, hq]

/-- Settles O26: the timeout of the first wait, by its equation. -/
theorem firstWaitTimeoutResends : Obligations.FirstWaitTimeoutResends := by
  intro rest p s h hp hs hq hd
  have he : expired s = true := (expired_iff s).2 ⟨p.deadline, by simp [deadlineOf, hp, hs], hd⟩
  have hf : pendFrame (rxNone { s with sched := rest }) = p.frame := pendFrame_of_some hs
  have ht : onTimeout (rxNone { s with sched := rest }) = onSendTimeout (rxNone { s with sched := rest }) := by
    simp only [onTimeout, rxNone_phase, hp]
  rw [step_timeout h (by rw [hp]; rfl) hq he, ht, onSendTimeout_eq, hf]
  simp [hs, rxNone]

/-- Settles O27: no step before the deadline, and the resend at it. -/
theorem backoffSleepsThenDrainsAndResends : Obligations.BackoffSleepsThenDrainsAndResends := by
  intro rest p s h hp hs
  have hd : deadlineOf s = some p.deadline := by simp [deadlineOf, hp, hs]
  refine ⟨fun hlt => ?_, fun hle => ?_⟩
  · have he : expired { s with sched := rest } = false := by
      rw [Bool.eq_false_iff, ne_eq, expired_iff]
      rintro ⟨d, hd', hle⟩
      obtain rfl := Option.some.inj (hd.symm.trans hd')
      exact absurd hle (Nat.not_le.2 hlt)
    rw [step_transport h]
    simp only [transportStep, hp] at he ⊢
    simp [he]
  · have hf : pendFrame { s with sched := rest } = p.frame := pendFrame_of_some (s := { s with sched := rest }) hs
    rw [step_sendBackoff h hp ((expired_iff s).2 ⟨_, hd, hle⟩), resumeSend_eq, hf]
    simp [hs]

/-- Settles O19: the two phases that drain, and the refusal elsewhere. -/
theorem drainEmptiesTheQueue : Obligations.DrainEmptiesTheQueue := by
  refine fun s p => ⟨fun hp hs => ?_, fun hp hs hd => ?_, fun hp hb => ?_⟩
  · rw [exec, execDrain, if_pos hp, startSend_eq, pendFrame_of_some hs]
    simp [hs]
  · have he : expired s = true := (expired_iff s).2 ⟨p.deadline, by simp [deadlineOf, hp, hs], hd⟩
    rw [exec, execDrain, if_neg (by simp [hp]), if_pos ⟨hp, he⟩, resumeSend_eq, pendFrame_of_some hs]
    simp [hs]
  · have hno : ¬ (s.phase = .sendBackoff ∧ expired s = true) := by
      rintro ⟨hph, he⟩
      obtain ⟨d, hd, hle⟩ := (expired_iff s).1 he
      simp only [deadlineOf, hph, Option.map_eq_some_iff] at hd
      obtain ⟨q, hq, rfl⟩ := hd
      exact absurd hle (Nat.not_le.2 (hb hph q hq))
    rw [exec, execDrain, if_neg hp, if_neg hno]
    rfl

/-- Settles O28: at its deadline each wait ends with the error of its phase. -/
theorem deadlinesEndTheOperation : Obligations.DeadlinesEndTheOperation := by
  intro rest k s h hq hp
  have hr : s.phase.reads = true := by
    rcases hp with ⟨hp | hp, -⟩ | ⟨hp | hp, -⟩ | ⟨hp | hp, -⟩ <;> rw [hp] <;> rfl
  have he : expired s = true := by
    rw [expired_iff]
    rcases hp with ⟨hp, -, p, hs, hd⟩ | ⟨hp, -, hd⟩ | ⟨hp, -, d, hs, hd⟩
    · exact ⟨p.deadline, by rcases hp with hp | hp <;> simp [deadlineOf, hp, Option.mem_def.1 hs], hd⟩
    · exact ⟨s.syncDeadline, by rcases hp with hp | hp <;> simp [deadlineOf, hp], hd⟩
    · exact ⟨d, by rcases hp with hp | hp <;> simp [deadlineOf, hp, Option.mem_def.1 hs], hd⟩
  rw [step_timeout h hr hq he]
  rcases hp with ⟨hp | hp, rfl, -⟩ | ⟨hp | hp, rfl, -⟩ | ⟨hp | hp, rfl, -⟩
  · simp [onTimeout, hp, sendFailed, finishOp, rxNone]
  · simp [onTimeout, hp, sendFailed, finishOp, rxNone]
  · simp [onTimeout, hp, syncTimeout, finishOp, rxNone]
  · simp [onTimeout, hp, syncTimeout, finishOp, rxNone]
  · simp [onTimeout, hp, lenTimeout, finishOp, rxNone]
  · simp [onTimeout, hp, bodyTimeout, finishOp, rxNone]

/-- Settles O29: the byte at the head, phase by phase. -/
theorem queuedByteDecidesByPhase : Obligations.QueuedByteDecidesByPhase := by
  intro rest b q s h hq base dl k ended
  have hread (hr : s.phase.reads = true) : step s = .next (react b (rxTake b q { s with sched := rest })) :=
    step_read h hr hq
  refine ⟨fun hp => ?_, fun hp => ?_, fun hp => ?_, fun hp => ?_, fun hp => ?_, fun hp => ?_, fun hp => ?_⟩ <;>
    rw [hread (by rw [hp]; rfl)]
  · rw [react_syncOnly (s := { s with sched := rest }) _ _ hp]; rfl
  · rw [react_recvSync (s := { s with sched := rest }) _ _ hp]; rfl
  · rw [react_recvLen (s := { s with sched := rest }) _ _ hp]
    simp only [onRecvLen, follow_eq_zero_iff]
    rfl
  · rw [react_recvBody (s := { s with sched := rest }) _ _ hp]; rfl
  · rw [react_sendWait1 (s := { s with sched := rest }) _ _ hp]
    by_cases hb : b = 0x06#8
    · rw [if_pos hb]
      exact congrArg Host.Outcome.next (if_pos hb)
    · rw [if_neg hb, onSendWait1_of_ne hb]
      simp [base, rxTake]
  · rw [react_sendWait2T (s := { s with sched := rest }) _ _ hp]
    by_cases hb : b = 0x06#8
    · rw [if_pos hb]
      exact congrArg Host.Outcome.next (if_pos hb)
    · rw [if_neg hb, onSendWait2_of_ne hb]
      rfl
  · rw [react_sendWait2N (s := { s with sched := rest }) _ _ hp]
    by_cases hb : b = 0x06#8
    · rw [if_pos hb]
      exact congrArg Host.Outcome.next (if_pos hb)
    · rw [if_neg hb, onSendWait2_of_ne hb]
      rfl

end Sys2Proof.Machine
end

section
/-! PROOF. What the host issues: operations of Transport, commands, and their refusal (R21, R130, R150, R181, R200 to R213,
R243). -/

namespace Sys2Proof.Machine

/-- Settles O18: over a free block each operation begins. -/
theorem transportOperationsAreIssued : Obligations.TransportOperationsAreIssued := by
  intro t f s hp he hj
  have hfree : s.free = true := (free_iff s).2 ⟨hp, he, hj⟩
  refine ⟨?_, ?_, Config.freeTime s.fresh, ?_⟩
  · rw [exec, execSyncToFrameStart, if_pos hfree]; rfl
  · rw [exec, execReceiveFrame, if_pos hfree]; rfl
  · rw [exec, execSendFrame, if_pos hfree]; rfl

/-- A command is one `call` with its payload (R94, R181). -/
theorem exec_of_command {i : Instr} {p : List Byte} (h : imageOf i = .command p) (s : State) :
    ∃ reply t, exec i s = .next (startCall p reply t s) := by
  cases i <;> cases h <;> exact ⟨_, _, rfl⟩

/-- A command over a busy channel is refused (R185, R243). -/
theorem exec_command_of_busy {i : Instr} {p : List Byte} {s : State} (h : imageOf i = .command p)
    (hs : s.free = false) : exec i s = .next (refuse s) := by
  obtain ⟨reply, t, he⟩ := exec_of_command h s
  rw [he, startCall_of_not_free hs]

/-- A command whose payload fits no frame is refused (R111, R181). -/
theorem exec_command_of_long {i : Instr} {p : List Byte} {s : State} (h : imageOf i = .command p)
    (hl : maxPayload s.par.lenBias < p.length) : exec i s = .next (refuse s) := by
  obtain ⟨reply, t, he⟩ := exec_of_command h s
  rw [he, startCall_of_long hl]

/-- Settles O20: operations by their guard, `drain` by its phases, commands by the channel. -/
theorem busyBlockRefuses : Obligations.BusyBlockRefuses := by
  intro i s hi hs
  have hfree : ¬ s.free = true := by rw [not_free hs]; exact Bool.false_ne_true
  rcases hi with ⟨t, rfl⟩ | ⟨t, rfl⟩ | ⟨rfl, hstart, hback⟩ | ⟨f, rfl⟩ | rfl | rfl | rfl | ⟨a, rfl⟩ | rfl | rfl | rfl |
    ⟨a, x, y, rfl⟩ | ⟨a, r, rfl⟩ | ⟨a, v, rfl⟩ | rfl | ⟨m, o, rfl⟩ | ⟨m, o, rfl⟩ | ⟨c, a, rfl⟩
  · rw [exec, execSyncToFrameStart, if_neg hfree]; rfl
  · rw [exec, execReceiveFrame, if_neg hfree]; rfl
  · rw [exec, execDrain, if_neg hstart, if_neg fun h => hback h.1]; rfl
  · rw [exec, execSendFrame, if_neg hfree]; rfl
  all_goals exact exec_command_of_busy rfl (not_free hs)

/-- The request frame of a payload (R112, R181). -/
def requestFrame (b : LenBias) (p : List Byte) : List Byte :=
  frameBytes (lenByte b p.length) Config.typeRequest p (frameChecksum b Config.typeRequest p)

/-- A payload that fits is encoded as its request frame. -/
theorem encodeFrame_request {b : LenBias} {p : List Byte} (h : p.length ≤ maxPayload b) :
    encodeFrame b Config.typeRequest p = some (requestFrame b p) :=
  encodeFrame_of_le h

/-- A `call` over a free channel sends its request frame and waits for the handshake (R181). -/
theorem startCall_eq {s : State} {p : List Byte} (hp : s.phase = .idle) (he : s.exch = none) (hj : s.job = none)
    (hl : p.length ≤ maxPayload s.par.lenBias) (reply : Bool) (t : Nat) :
    startCall p reply t s = { s with
      phase := .sendStart
      pend := some { frame := requestFrame s.par.lenBias p, attempts := 0, deadline := Config.freeTime s.fresh }
      exch := some { wait := .handshake reply t, got := none }
      fresh := s.fresh + 1 } :=
  startCall_of_free ((free_iff s).2 ⟨hp, he, hj⟩) hl

/-- Settles O21: the frame of each opcode under either bias. -/
theorem commandsWithoutArgumentsSendTheirFrame : Obligations.CommandsWithoutArgumentsSendTheirFrame := by
  intro i op chk reply s hi hp he hj
  have hl : [op].length ≤ maxPayload s.par.lenBias := by
    have hb := lenBias_cases s.par.lenBias
    simp only [maxPayload, List.length_singleton]
    omega
  refine ⟨Config.freeTime s.fresh, requestFrame s.par.lenBias [op], ?_, ?_, ?_⟩
  · intro hb
    rw [hb]
    rcases hi with ⟨-, rfl, rfl, -⟩ | ⟨-, rfl, rfl, -⟩ | ⟨-, rfl, rfl, -⟩ | ⟨-, rfl, rfl, -⟩ | ⟨-, rfl, rfl, -⟩ |
      ⟨-, rfl, rfl, -⟩ | ⟨-, rfl, rfl, -⟩ <;> decide
  · intro hb
    rw [hb]
    rcases hi with ⟨-, rfl, rfl, -⟩ | ⟨-, rfl, rfl, -⟩ | ⟨-, rfl, rfl, -⟩ | ⟨-, rfl, rfl, -⟩ | ⟨-, rfl, rfl, -⟩ |
      ⟨-, rfl, rfl, -⟩ | ⟨-, rfl, rfl, -⟩ <;> decide
  · have hexec : exec i s = .next (startCall [op] reply s.par.replyTimeout s) := by
      rcases hi with ⟨rfl, rfl, -, rfl⟩ | ⟨rfl, rfl, -, rfl⟩ | ⟨rfl, rfl, -, rfl⟩ | ⟨rfl, rfl, -, rfl⟩ |
        ⟨rfl, rfl, -, rfl⟩ | ⟨rfl, rfl, -, rfl⟩ | ⟨rfl, rfl, -, rfl⟩ <;> rfl
    rw [hexec, startCall_eq hp he hj hl]

/-- The image of each command with arguments is its payload, offsets as three bytes (R62, R203, R207 to R213). -/
theorem imageOf_argumentCommand {i : Instr} {payload : List Byte}
    (h : (∃ a, i = .getProtocolVersion a ∧ payload = 0x09#8 :: a) ∨
      (∃ (h m l : Byte) (x y : Byte), i = .nvmExtRead (Safety.addr24 h m l) x y ∧ payload = [0x2A#8, h, m, l, x, y]) ∨
      (∃ (h m l : Byte) (r : List Byte), i = .nvmExtWriteRange (Safety.addr24 h m l) r ∧ payload = [0x2B#8, h, m, l] ++ r) ∨
      (∃ (h m l : Byte) (v : Byte), i = .nvmExtWriteByte (Safety.addr24 h m l) v ∧ payload = [0x2D#8, h, m, l, v]) ∨
      (∃ mode opts, i = .addNode mode opts ∧ payload = [0x4A#8, mode, opts]) ∨
      (∃ mode opts, i = .removeNode mode opts ∧ payload = [0x4B#8, mode, opts]) ∨
      (∃ c a, i = .fwUpdateNvm c a ∧ payload = 0x78#8 :: c :: a)) : imageOf i = .command payload := by
  rcases h with ⟨a, rfl, rfl⟩ | ⟨h, m, l, x, y, rfl, rfl⟩ | ⟨h, m, l, r, rfl, rfl⟩ | ⟨h, m, l, v, rfl, rfl⟩ |
    ⟨mode, opts, rfl, rfl⟩ | ⟨mode, opts, rfl, rfl⟩ | ⟨c, a, rfl, rfl⟩
  · rfl
  · rw [imageOf, addrBytes_addr24]; rfl
  · rw [imageOf, addrBytes_addr24]; rfl
  · rw [imageOf, addrBytes_addr24]; rfl
  · rfl
  · rfl
  · rfl

/-- The `call` of a command: NVM commands await a reply within the default timeout, membership commands await one unless
they stop, within their own (R181, R207 to R209, R211, R212). -/
theorem exec_of_command_reply {i : Instr} {p : List Byte} (h : imageOf i = .command p) (s : State) :
    ∃ reply t, exec i s = .next (startCall p reply t s) ∧
      ((∃ a x y, i = .nvmExtRead a x y) ∨ (∃ a r, i = .nvmExtWriteRange a r) ∨ (∃ a v, i = .nvmExtWriteByte a v) →
        reply = true ∧ t = s.par.replyTimeout) ∧
      (∀ m o, i = .addNode m o ∨ i = .removeNode m o →
        reply = (m != Config.modeStop (if i = .addNode m o then 0x4A#8 else 0x4B#8)) ∧ t = s.par.membershipTimeout) := by
  cases i <;> cases h <;> refine ⟨_, _, rfl, ?_, ?_⟩ <;> simp

/-- Settles O22: the frame of the payload, and the reply rule of each command. -/
theorem commandsWithArgumentsSendTheirFrame : Obligations.CommandsWithArgumentsSendTheirFrame := by
  intro i payload s hi hl hp he hj
  obtain ⟨reply, t, hexec, hnvm, hmember⟩ := exec_of_command_reply (imageOf_argumentCommand hi) s
  refine ⟨Config.freeTime s.fresh, lenByte s.par.lenBias payload.length,
    frameChecksum s.par.lenBias Config.typeRequest payload, reply, t, lenByte_toNat hl, checksumOf_eq_foldl _, hnvm,
    hmember, ?_⟩
  rw [hexec, startCall_eq hp he hj hl]
  rfl

/-- Settles O23: `encode` outside its domain, and the three commands that can be too long. -/
theorem longPayloadIsRefused : Obligations.LongPayloadIsRefused := by
  intro i bytes s hi hl
  rcases hi with ⟨ty, rfl⟩ | hi | hi | hi
  · exact exec_encode_of_lt hl
  · exact exec_command_of_long (imageOf_argumentCommand (.inl hi)) hl
  · exact exec_command_of_long (imageOf_argumentCommand (.inr (.inr (.inl hi)))) hl
  · exact exec_command_of_long (imageOf_argumentCommand (.inr (.inr (.inr (.inr (.inr (.inr hi))))))) hl

end Sys2Proof.Machine
end

section
/-! PROOF. Waiting, the passing of time, and what a move presents (R32, R53, R89 to R93, R215, R246). -/

namespace Sys2Proof.Machine

/-- A read without a byte and without an expired deadline takes no step (R53). -/
theorem transportStep_waiting {s : State} (hr : s.phase.reads = true) (hq : s.rxq = []) (he : expired s = false) :
    transportStep s = none := by
  cases h : transportStep s with
  | none => rfl
  | some t =>
    rcases transportStep_some h with ⟨-, b, q, hq', -⟩ | ⟨-, -, he', -⟩ | ⟨hp, -⟩ | ⟨hp, -⟩ | ⟨hp, -⟩
    · exact nomatch hq.symm.trans hq'
    · exact nomatch he.symm.trans he'
    all_goals rw [hp] at hr; exact nomatch hr

/-- With no move to come, the default step (notes/assumptions/2). -/
theorem step_of_nil {s : State} (h : s.sched = []) : step s = .next (autoStep s) := by
  simp only [step, scheduleStep, h]

/-- Outside `Idle` the host has nothing to take (R21). -/
theorem hostStep_of_busy {s : State} (hp : s.phase ≠ .idle) : hostStep s = none := by
  cases h : hostStep s with
  | none => rfl
  | some t => exact absurd (hostStep_some h).1 hp

/-- Where no wait bounds it, time passes whole (R32). -/
theorem advance_free {s : State} (h : timeBound s = none) (ms : Nat) : advance ms s = { s with now := s.now + ms } := by
  rw [advance, h]

/-- A wait without a deadline does not bound time (R53). -/
theorem timeBound_of_no_deadline {s : State} (h : deadlineOf s = none) : timeBound s = none := by
  rw [timeBound, h, ite_self]

/-- A phase that does not read does not bound time (R56). -/
theorem timeBound_of_not_reads {s : State} (h : s.phase.reads = false) : timeBound s = none := by
  simp [timeBound, h]

/-- Nor does a wait with a byte to read (R53). -/
theorem timeBound_of_queued {s : State} (h : s.rxq ≠ []) : timeBound s = none := by
  simp [timeBound, h]

/-- Settles O31: Transport and the host have no step, and time is not bounded. -/
theorem truncatedFrameHangsWithoutADeadline : Obligations.TruncatedFrameHangsWithoutADeadline := by
  intro s hp hd hq
  have hr : s.phase.reads = true := by rcases hp with hp | hp <;> rw [hp] <;> rfl
  have hidle : s.phase ≠ .idle := by rcases hp with hp | hp <;> rw [hp] <;> exact nofun
  have hnone : deadlineOf s = none := by rcases hp with hp | hp <;> rw [deadlineOf, hp] <;> exact hd
  have he : expired s = false := by rw [expired, hnone]
  refine ⟨fun m rest hs hm => ?_, fun hs => ?_⟩
  · rcases hm with rfl | rfl | ⟨ms, rfl⟩
    · refine ⟨s.now, Nat.le_refl _, ?_⟩
      rw [step_transport hs, transportStep_waiting (s := { s with sched := rest }) hr hq he]
      rfl
    · refine ⟨s.now, Nat.le_refl _, ?_⟩
      rw [step_host hs, hostStep_of_busy (s := { s with sched := rest }) hidle]
      rfl
    · refine ⟨s.now + ms, Nat.le_add_right _ _, ?_⟩
      rw [step_of_sched hs]
      exact congrArg Host.Outcome.next
        (passTime_free (timeBound_of_no_deadline (s := { s with sched := rest }) hnone) ms)
  · refine ⟨s.now + Config.freeAdvance s.fresh, Nat.le_add_right _ _, ?_⟩
    have hauto : autoStep s = advance (Config.freeAdvance s.fresh) { s with fresh := s.fresh + 1 } := by
      rw [autoStep, transportStep_waiting hr hq he, hostStep_of_busy hidle]
    rw [step_of_nil hs, hauto,
      advance_free (timeBound_of_no_deadline (s := { s with fresh := s.fresh + 1 }) hnone)]

/-- Settles O32: before, up to and past a deadline, at it, and without one. -/
theorem timeStopsAtAWaitsDeadline : Obligations.TimeStopsAtAWaitsDeadline := by
  intro ms rest s hs
  have hstep : step s = .next (passTime ms { s with sched := rest }) := step_of_sched hs
  refine ⟨fun d hq hd => ?_, fun hfree => ?_⟩
  · have hr : s.phase.reads = true := by
      rcases hd with ⟨hp | hp, -⟩ | ⟨hp | hp | hp, -⟩ | ⟨hp | hp, -⟩ <;> rw [hp] <;> rfl
    have hdl : deadlineOf s = some d := by
      rcases hd with ⟨hp | hp, h⟩ | ⟨hp | hp | hp, h⟩ | ⟨hp | hp, h⟩ <;> simp [deadlineOf, hp, h]
    have hbound := passTime_bound (s := { s with sched := rest }) hr hq hdl
    refine ⟨fun hlt hle => ?_, fun hlt hgt => ?_, fun hle => ?_⟩
    · rw [hstep, hbound hlt, if_pos hle]
    · rw [hstep, hbound hlt, if_neg (Nat.not_le.2 hgt)]
    · have he : expired s = true := (expired_iff s).2 ⟨d, hdl, hle⟩
      rw [hstep, passTime_expired (s := { s with sched := rest }) hr hq he,
        step_timeout (s := { s with sched := .transport :: .time ms :: rest }) rfl hr hq he]
  · have hnone : timeBound s = none := by
      rcases hfree with hp | hp | hp | hp | hq | ⟨hp | hp, hd⟩ | ⟨hp | hp | hp, hd⟩
      iterate 4 exact timeBound_of_not_reads (by rw [hp]; rfl)
      · exact timeBound_of_queued hq
      iterate 5 exact timeBound_of_no_deadline (by simp [deadlineOf, hp, hd])
    rw [hstep, passTime_free (s := { s with sched := rest }) hnone]

/-- Settles O33: the fetch of an image that decodes. -/
theorem stepRunsTheDecodedInstruction : Obligations.StepRunsTheDecodedInstruction := by
  intro im rest i s hs hd
  have hd' : decodeImage { s with sched := rest }.par.lenBias im = .ok i := hd
  rw [step_of_sched hs, runMove, runImage, hd']

/-- The fetch of an image that does not decode. -/
theorem step_of_carried {im : Image} {e : DecodeError} {rest : List Move} {s : State} (hs : s.sched = .fetch im :: rest)
    (hd : decodeImage s.par.lenBias im = .error e) : step s = carryImage im { s with sched := rest } := by
  have hd' : decodeImage { s with sched := rest }.par.lenBias im = .error e := hd
  rw [step_of_sched hs, runMove, runImage, hd']

/-- Settles O34: garbage is queued in `Idle`, an unlisted command is carried by a `call`. -/
theorem bytesOutsideTheTableAreCarried : Obligations.BytesOutsideTheTableAreCarried := by
  refine fun bytes e rest s hp => ⟨fun hs hd hc => ?_, fun hs hd hl he hj => ?_⟩
  · rw [step_of_carried hs hd]
    exact receiveUnit_of_not_reads (s := { s with sched := rest }) ((roomFor_iff _ s).2 hc) (by rw [hp]; rfl)
  · refine ⟨Config.freeTime s.fresh, Config.replyUnstated (bytes.headD 0x00#8), requestFrame s.par.lenBias bytes,
      encodeFrame_request hl, ?_⟩
    rw [step_of_carried hs hd]
    exact congrArg Host.Outcome.next (startCall_eq (s := { s with sched := rest }) hp he hj hl _ _)

end Sys2Proof.Machine
end

section
/-! PROOF. The host's moves: how a `call`, an `awaitCallback` and an operation of the layers go on (R181 to R185, R190). -/

namespace Sys2Proof.Machine

section
variable {s : State} {rest : List Move} {w : Wait} {r : OpResult}

/-- The host takes an outcome that asks for the reply (R181). -/
theorem step_host_receive {t : Nat} (hs : s.sched = .host :: rest) (hp : s.phase = .idle)
    (he : s.exch = some ⟨w, some r⟩) (hc : channelNext w r = .receive t) :
    step s = .next (awaitFrame .reply t { s with sched := rest }) := by
  have h : hostStep { s with sched := rest } = some (awaitFrame .reply t { s with sched := rest }) := by
    simp only [hostStep, hp, he, hc]
  rw [step_host hs, h]
  rfl

/-- The host takes an outcome that resolves its `call` or `awaitCallback` (R181, R183). -/
theorem step_host_resolved {r' : OpResult} (hs : s.sched = .host :: rest) (hp : s.phase = .idle)
    (he : s.exch = some ⟨w, some r⟩) (hc : channelNext w r = .resolved r') :
    step s = .next (resolve r' { s with sched := rest }) := by
  have h : hostStep { s with sched := rest } = some (resolve r' { s with sched := rest }) := by
    simp only [hostStep, hp, he, hc]
  rw [step_host hs, h]
  rfl

/-- The same for a `call` or `awaitCallback` of the host's own: its outcome is handed on (R181, R183). -/
theorem step_host_handsOn {r' : OpResult} (hs : s.sched = .host :: rest) (hp : s.phase = .idle) (hj : s.job = none)
    (he : s.exch = some ⟨w, some r⟩) (hc : channelNext w r = .resolved r') :
    step s = .next { s with sched := rest, exch := none, outlog := s.outlog ++ [r'] } := by
  rw [step_host_resolved hs hp he hc]
  simp [resolve, hj, jobDone, answer]

/-- The same for the call of an operation of the layers: its next act follows (R190). -/
theorem step_host_nextAct {r' : OpResult} {j j' : Job} {a : HostAct} (hs : s.sched = .host :: rest) (hp : s.phase = .idle)
    (hj : s.job = some j') (he : s.exch = some ⟨w, some r⟩) (hc : channelNext w r = .resolved r')
    (hn : jobNext s.par j' r' = (j, a)) : step s = .next (perform j a { s with sched := rest }) := by
  rw [step_host_resolved hs hp he hc]
  simp only [resolve, hj, hn]

end

/-- An error of the send is passed up (R181). -/
theorem channelNext_handshake_err (b : Bool) (t : Nat) (k : ErrKind) :
    channelNext (.handshake b t) (.err k []) = .resolved (.err k []) := by
  cases b <;> rfl

/-- Settles O35: the receive, the end without a reply, and the error. -/
theorem callGoesOnAfterTheHandshake : Obligations.CallGoesOnAfterTheHandshake :=
  fun _ _ t _ b k _ hs hp => ⟨fun he => step_host_receive hs hp he rfl,
    fun hj he => step_host_handsOn hs hp hj he rfl,
    fun hj he => step_host_handsOn hs hp hj he (channelNext_handshake_err b t k)⟩

/-- A good reply is its payload (R181, R116). -/
theorem replyResult_of_good (t c : Byte) (p : List Byte) :
    replyResult (t :: p ++ [c]) true = .ok (.reply (some p)) := by
  rw [replyResult, if_pos rfl, if_neg (by simp), payloadOfBody_append]

/-- A good reply without room for TYPE and CHECKSUM (R182). -/
theorem replyResult_of_short {body : List Byte} (h : body.length < 2) : replyResult body true = .err .tooShort [] := by
  rw [replyResult, if_pos rfl, if_pos h]

/-- Settles O36: the payload, a bad checksum, a short body, an error. -/
theorem callResolvesItsReply : Obligations.CallResolvesItsReply := by
  intro rest t c p body k s hs hp hj
  refine ⟨fun he => ?_, fun he => step_host_handsOn hs hp hj he rfl, fun he hl => ?_,
    fun he => step_host_handsOn hs hp hj he rfl⟩
  · exact step_host_handsOn hs hp hj he (congrArg ChannelAct.resolved (replyResult_of_good t c p))
  · exact step_host_handsOn hs hp hj he (congrArg ChannelAct.resolved (replyResult_of_short hl))

/-- Settles O37: the hunt, and the outcome as it is. -/
theorem awaitCallbackIsReceiveFrame : Obligations.AwaitCallbackIsReceiveFrame := by
  refine fun rest t r s hp hj => ⟨fun hs he => ?_, fun hs he => step_host_handsOn hs hp hj he rfl⟩
  have hfree : State.free { s with sched := rest } = true := (free_iff { s with sched := rest }).2 ⟨hp, he, hj⟩
  rw [step_of_sched hs, runMove, startHostOp, startAwait, if_pos hfree]
  rfl

/-- A host operation issued over a busy block is refused (R185, R243). -/
theorem startHostOp_of_busy {s : State} (h : HostOp) (hs : s.free = false) : startHostOp h s = refuse s := by
  cases h
  case call p e t => exact startCall_of_not_free hs
  all_goals exact if_neg (by rw [hs]; exact Bool.false_ne_true)

/-- An operation of the layers begins with its first act (R190). -/
theorem startHostOp_of_free {s : State} {h : HostOp} {j : Job} {a : HostAct} (hs : s.free = true)
    (hb : jobBegin s.par h = some (j, a)) : startHostOp h s = perform j a s := by
  cases h
  case call => exact nomatch hb
  case awaitCallback => exact nomatch hb
  all_goals
    rw [startHostOp]
    · rw [if_pos hs, hb]
    · exact nofun
    · exact nofun

/-- What `encode` makes of a request's payload is its request frame, and the payload fits (R112). -/
theorem eq_requestFrame_of_encodeFrame {b : LenBias} {p f : List Byte} (h : encodeFrame b Config.typeRequest p = some f) :
    p.length ≤ maxPayload b ∧ f = requestFrame b p := by
  by_cases hp : p.length ≤ maxPayload b
  · exact ⟨hp, (Option.some.inj ((encodeFrame_request hp).symm.trans h)).symm⟩
  · rw [encodeFrame_of_lt (Nat.not_le.1 hp)] at h
    exact nomatch h

/-- An act that is a `call` sends its request frame (R181). -/
theorem perform_call {j : Job} {p f : List Byte} {e : Bool} {t : Nat} {s : State}
    (hf : encodeFrame s.par.lenBias Config.typeRequest p = some f) :
    perform j (.call p e t) s = { s with
      phase := .sendStart
      pend := some { frame := f, attempts := 0, deadline := Config.freeTime s.fresh }
      exch := some ⟨.handshake e t, none⟩
      job := some j
      fresh := s.fresh + 1 } := by
  simp only [perform, sendCommand, hf, Option.map_some, Option.getD_some]
  rfl

/-- An act that is a `call` of a payload too long for a frame ends the operation (R111). -/
theorem perform_call_long {j : Job} {p : List Byte} {e : Bool} {t : Nat} {s : State}
    (hf : encodeFrame s.par.lenBias Config.typeRequest p = none) :
    perform j (.call p e t) s = jobDone (callRefused s.par j) s := by
  simp only [perform, sendCommand, hf, Option.map_none, Option.getD_none]

/-- Settles O38: the refusal, the host's own `call`, and the acts of the operations. -/
theorem hostOperationsRunByTheirActs : Obligations.HostOperationsRunByTheirActs := by
  refine ⟨fun rest h s hs hbusy => ?_, fun rest p f e t s hs hp he hj hf => ⟨Config.freeTime s.fresh, ?_⟩, ?_⟩
  · rw [step_of_sched hs]
    exact congrArg Host.Outcome.next (startHostOp_of_busy (s := { s with sched := rest }) h (not_free (s := s) hbusy))
  · obtain ⟨hl, rfl⟩ := eq_requestFrame_of_encodeFrame hf
    rw [step_of_sched hs]
    exact congrArg Host.Outcome.next (startCall_eq (s := { s with sched := rest }) hp he hj hl _ _)
  · intro rest j a s hp hact
    have hstep : step s = .next (perform j a { s with sched := rest }) := by
      rcases hact with ⟨h, hs, he, hj, hb⟩ | ⟨w, r, r', j', hs, he, hc, hj, hn⟩
      · rw [step_of_sched hs]
        exact congrArg Host.Outcome.next
          (startHostOp_of_free (s := { s with sched := rest }) ((free_iff s).2 ⟨hp, he, hj⟩) hb)
      · exact step_host_nextAct hs hp hj he hc hn
    refine ⟨fun p e t f ha hf => ⟨Config.freeTime s.fresh, ?_⟩, fun p e t ha hf => ?_, fun t ha => ?_, fun r ha => ?_⟩ <;>
      subst ha <;> rw [hstep]
    · exact congrArg Host.Outcome.next (perform_call (s := { s with sched := rest }) hf)
    · exact congrArg Host.Outcome.next (perform_call_long (s := { s with sched := rest }) hf)
    · rfl
    · rfl

end Sys2Proof.Machine
end

section
/-! PROOF. The operations of the layers: NVMOperations and the reset sequences, act by act (R190 to R195, R202, R210). -/

namespace Sys2Proof.Machine

/-- Settles O39: the request, and the status of its response. -/
theorem writeByteFailsOnAZeroStatus : Obligations.WriteByteFailsOnAZeroStatus := by
  refine ⟨fun _ _ _ => rfl, fun rest op st t c s hs hp hj he => ?_⟩
  rw [step_host_nextAct (j := .writeByte) (a := .done (writeByteResult (.ok (.reply (some [op, st]))))) hs hp hj he
    (congrArg ChannelAct.resolved (replyResult_of_good t c [op, st])) rfl]
  rfl

/-- The length field is one of the three forms (R14). -/
theorem lengthField_cases (f : LengthForm) :
    (∀ n, lengthField f n = [BitVec.ofNat 8 n]) ∨
    (∀ n, lengthField f n = [BitVec.ofNat 8 (n / 256), BitVec.ofNat 8 n]) ∨
    (∀ n, lengthField f n = [BitVec.ofNat 8 n, BitVec.ofNat 8 (n / 256)]) := by
  cases f
  · exact .inl fun _ => rfl
  · exact .inr (.inl fun _ => rfl)
  · exact .inr (.inr fun _ => rfl)

/-- The bytes of a `writeRange` request (R208). -/
theorem writePayload_eq (a : Nat) (bytes : List Byte) : writePayload a bytes =
    [0x2B#8] ++ addrBytes (nvmAddr a) ++ lengthField Config.nvmLengthForm bytes.length ++ bytes := by
  simp [writePayload, instrBytes, imageOf, imageBytes]

/-- A chunk of 16 bytes of a `fill` that is not done (R195). -/
theorem fillNext_chunk {par : Params} (v : Byte) {n i : Nat} (hc : par.chunkMax = 16) (hi : i < n) :
    fillNext par v (16 * n) (16 * i) = (.fill v (16 * n) 16 (16 * i),
      .call ([0x2B#8] ++ addrBytes (nvmAddr (16 * i)) ++ lengthField Config.nvmLengthForm 16 ++ List.replicate 16 v)
        true par.replyTimeout) := by
  have hmin : min 16 (16 * n - 16 * i) = 16 := by omega
  have hcount : fillCount par (16 * n - 16 * i) = 16 := by
    rw [fillCount, hc, if_pos (by omega)]
  rw [fillNext, hc, hmin, if_neg (by omega), hcount, writePayload_eq, List.length_replicate]

/-- A `fill` that has written all (R195). -/
theorem fillNext_done (par : Params) (v : Byte) (n : Nat) : (fillNext par v n n).2 = .done (.ok .unit) := by
  rw [fillNext, if_pos (Nat.le_refl n)]

/-- A response with a status other than zero acknowledges its chunk (R195). -/
theorem jobNext_fill_ack {par : Params} {v op st : Byte} {total chunk written : Nat} (hst : st ≠ 0x00#8) :
    jobNext par (.fill v total chunk written) (.ok (.reply (some [op, st]))) = fillNext par v total (written + chunk) :=
  if_neg hst

/-- Settles O40: chunk after chunk, and the three ways a chunk fails. -/
theorem fillWritesSixteenByteChunksInOrder : Obligations.FillWritesSixteenByteChunksInOrder := by
  refine ⟨lengthField Config.nvmLengthForm 16, ?_, fun par v op st n i k b hc hi hst =>
    ⟨?_, fun hlt => ?_, fun heq => ?_, rfl, rfl, rfl⟩⟩
  · exact (lengthField_cases Config.nvmLengthForm).imp (· 16) (.imp (· 16) (· 16))
  · exact congrArg some (fillNext_chunk (i := 0) v hc (Nat.zero_lt_of_lt hi))
  · rw [jobNext_fill_ack hst, ← Nat.mul_succ]
    exact fillNext_chunk v hc hlt
  · subst heq
    rw [jobNext_fill_ack hst, ← Nat.mul_succ]
    exact fillNext_done par v _

/-- The bytes of a `readRange` request (R207). -/
theorem readPayload_eq (a n : Nat) : readPayload a n =
    [0x2A#8] ++ addrBytes (nvmAddr a) ++ [(Config.nvmReadFields a n).1, (Config.nvmReadFields a n).2] := rfl

/-- The next chunk of a `readRange` (R192). -/
theorem readNext_chunk {par : Params} {left : Nat} (a : Nat) (acc : List Byte) (hc : par.chunkMax = 16) (hl : left ≠ 0) :
    readNext par a left acc = (.read a (min 16 left) (left - min 16 left) (readPayload a (min 16 left)) acc,
      .call (readPayload a (min 16 left)) true par.replyTimeout) := by
  rw [readNext, hc, if_neg hl]

/-- A response whose echo matches (R192). -/
theorem jobNext_read_ok {par : Params} {a chunk left : Nat} {req acc p : List Byte} (h : Config.nvmEchoOk req p = true) :
    jobNext par (.read a chunk left req acc) (.ok (.reply (some p))) =
      readNext par (a + chunk) left (acc ++ (Config.nvmReadData p).take par.chunkMax) :=
  if_pos h

/-- A response whose echo does not match (R192). -/
theorem jobNext_read_wrongEcho {par : Params} {a chunk left : Nat} {req acc p : List Byte}
    (h : Config.nvmEchoOk req p = false) : jobNext par (.read a chunk left req acc) (.ok (.reply (some p))) =
      (.read a chunk left req acc, .done (.err .transferError [])) :=
  if_neg (by rw [h]; exact Bool.false_ne_true)

/-- Settles O41: the first chunk, the echo, the next chunk, the end. -/
theorem readRangeReadsInChunks : Obligations.ReadRangeReadsInChunks := by
  intro par start len addr chunk left req acc p b k hc ask
  refine ⟨fun hl => ?_, fun hl => ?_, fun he => ?_, fun he hl => ?_, fun he hl => ?_, rfl⟩
  · subst hl
    rfl
  · have hne : len.toNat ≠ 0 := fun h => hl (BitVec.eq_of_toNat_eq h)
    have hask : ask start start.toNat (min 16 len.toNat) = readPayload start.toNat (min 16 len.toNat) := by
      rw [readPayload_eq, nvmAddr_toNat]
    rw [hask]
    exact congrArg some (readNext_chunk _ _ hc hne)
  · rw [jobNext_read_wrongEcho he]
  · rw [jobNext_read_ok he, readNext, if_pos hl, hc]
  · rw [jobNext_read_ok he, hc]
    exact readNext_chunk _ _ hc (Nat.ne_of_gt hl)

/-- The next chunk of a `writeRange` (R194). -/
theorem writeNext_chunk {par : Params} {bytes : List Byte} (a : Nat) (hc : par.chunkMax = 16) (hb : bytes ≠ []) :
    writeNext par a bytes = (.write a (min 16 bytes.length) (bytes.drop 16),
      .call ([0x2B#8] ++ addrBytes (nvmAddr a) ++ lengthField Config.nvmLengthForm (min 16 bytes.length) ++ bytes.take 16)
        true par.replyTimeout) := by
  rw [writeNext, hc, if_neg (by simpa using hb), writePayload_eq, List.length_take]

/-- A response with a status other than zero acknowledges its chunk (R194). -/
theorem jobNext_write_ack {par : Params} {op st : Byte} {a chunk : Nat} {rest : List Byte} (hst : st ≠ 0x00#8) :
    jobNext par (.write a chunk rest) (.ok (.reply (some [op, st]))) = writeNext par (a + chunk) rest :=
  if_neg hst

/-- Settles O42: the first chunk, the next chunk, the end, and the two failures. -/
theorem writeRangeWritesInChunks : Obligations.WriteRangeWritesInChunks := by
  refine ⟨lengthField Config.nvmLengthForm, lengthField_cases _, ?_⟩
  intro par start addr chunk bytes rest b op st k hc hb hst sent
  refine ⟨rfl, ?_, ?_, ?_, rfl, rfl⟩
  · have h := writeNext_chunk start.toNat hc hb
    rw [nvmAddr_toNat] at h
    exact congrArg some h
  · rw [jobNext_write_ack hst]
    exact writeNext_chunk _ hc hb
  · rw [jobNext_write_ack hst]
    rfl

/-- Settles O43: the request, the response, the error. -/
theorem identifyIsOneExchange : Obligations.IdentifyIsOneExchange :=
  fun _ p _ => ⟨Config.manufacturerCode p, Config.deviceInfo p, rfl, rfl, rfl⟩

/-- Settles O44: the acts of the two sequences. -/
theorem resetCommandsRunTheirSequences : Obligations.ResetCommandsRunTheirSequences :=
  fun _ _ _ _ => ⟨rfl, rfl, rfl, rfl, rfl, rfl, rfl⟩

/-- Settles O47: a link that opens makes the created Transport, and reset is one. -/
theorem openingTheLinkIsReset : Obligations.OpeningTheLinkIsReset :=
  ⟨fun q now par => ⟨rfl, State.created q now par, rfl, rfl, rfl, rfl, rfl, rfl, rfl, rfl⟩,
    Config.resetRxq, Config.resetNow, rfl⟩

end Sys2Proof.Machine
end

section
/-! PROOF. The membership protocols (R197, R211, R212, R244). -/

namespace Sys2Proof.Machine

/-- A membership command by its bytes (R211, R212). -/
theorem memberCommand_eq (adding : Bool) (mode : Byte) : memberCommand adding mode =
    [memberOpcode adding, mode, Config.txOptions (memberOpcode adding) mode] := by
  cases adding <;> rfl

/-- The next act in a membership loop: another wait, or a stop command from which no way leads back (R197). -/
def WaitsOrStops (par : Params) (adding : Bool) (node : Option Byte) (next : Job × HostAct) : Prop :=
  (next.2 = .await par.membershipTimeout ∧ ∃ st' node', next.1 = .member adding st' node') ∨
  (next.2 = .call (memberStop adding) false par.membershipTimeout ∧
    (next.1 = .memberStop adding node ∨ ∃ e, next.1 = .memberCleanup .failed node e))

/-- A status of a membership frame leads to another wait or to a stop (R197). -/
theorem waitsOrStops_memberStatus (par : Params) (adding : Bool) (st : Membership) (node : Option Byte) (p : List Byte) :
    WaitsOrStops par adding node (memberStatus par adding st node p) := by
  unfold memberStatus
  split
  · exact .inl ⟨rfl, _, _, rfl⟩
  · exact .inl ⟨rfl, _, _, rfl⟩
  · exact .inl ⟨rfl, _, _, rfl⟩
  · exact .inr ⟨rfl, .inl rfl⟩
  · exact .inr ⟨rfl, .inr ⟨_, rfl⟩⟩
  · exact .inl ⟨rfl, _, _, rfl⟩

/-- So does whatever a `call` or `awaitCallback` of the loop returns (R197). -/
theorem waitsOrStops_memberGot (par : Params) (adding : Bool) (st : Membership) (node : Option Byte) (r : OpResult) :
    WaitsOrStops par adding node (memberGot par adding st node r) := by
  unfold memberGot
  split
  · exact waitsOrStops_memberStatus par adding st node _
  · exact waitsOrStops_memberStatus par adding st node _
  · exact .inr ⟨rfl, .inr ⟨_, rfl⟩⟩

/-- The explicit stop leads to the cleanup stop, in `Done` or in `Failed` (R197). -/
theorem memberStopped_cases (par : Params) (adding : Bool) (node : Option Byte) (r : OpResult) :
    (memberStopped par adding node r).2 = .call (memberStop adding) false par.membershipTimeout ∧
      ∃ final e, (final = .done ∨ final = .failed) ∧
        (memberStopped par adding node r).1 = .memberCleanup final node e := by
  unfold memberStopped
  split
  · exact ⟨rfl, _, _, .inl rfl, rfl⟩
  · exact ⟨rfl, _, _, .inr rfl, rfl⟩

/-- Settles O46: the start, the loop, the two stops, and the first error. -/
theorem membershipAlwaysSendsItsStop : Obligations.MembershipAlwaysSendsItsStop := by
  intro par adding st node e k k' b v r op command stop
  have hstop : HostAct.call (memberStop adding) false par.membershipTimeout = stop :=
    congrArg (HostAct.call · false par.membershipTimeout) (memberCommand_eq adding _)
  refine ⟨?_, hstop ▸ waitsOrStops_memberGot par adding st node r, ?_, hstop ▸ memberStopped_cases par adding node r,
    rfl, rfl, ⟨_, rfl⟩, rfl, rfl, rfl⟩
  · cases adding <;> rfl
  · rw [← hstop]
    rfl

end Sys2Proof.Machine
end

section
/-! PROOF. The invariant of the machine (R35, R52, R69, R190): each act of an agent keeps it. -/

namespace Sys2Proof.Machine

open Safety

/-- The invariant does not speak of the schedule, the clock or the count of free values. -/
theorem stateInv_quiet {s t : State} (h : Quiet s t) (hs : StateInv s) : StateInv t := by
  obtain ⟨l, n, m, -, rfl⟩ := h
  exact ⟨hs.pend, hs.attempts, hs.body, hs.queue, hs.history, hs.job⟩

/-- A peer step stays within the capacity (R52). -/
theorem stateInv_append {s : State} {bs : List Byte} (hr : roomFor bs.length s = true) (hs : StateInv s) :
    StateInv { s with rxq := s.rxq ++ bs } where
  pend := hs.pend
  attempts := hs.attempts
  body := hs.body
  queue c hc := by simpa using (roomFor_iff _ s).1 hr c hc
  history := hs.history
  job := hs.job

/-- Taking a byte shortens the queue (R53). -/
theorem stateInv_rxTake {s : State} {b : Byte} {q : List Byte} (hq : s.rxq = b :: q) (hs : StateInv s) :
    StateInv (rxTake b q s) where
  pend := hs.pend
  attempts := hs.attempts
  body := hs.body
  queue c hc := by
    have hl := hs.queue c hc
    simp only [hq, List.length_cons] at hl
    exact Nat.le_of_succ_le hl
  history := by simpa [HistoryOk, written] using hs.history
  job := hs.job

/-- A timeout is an event that writes nothing (R69). -/
theorem stateInv_rxNone {s : State} (hs : StateInv s) : StateInv (rxNone s) where
  pend := hs.pend
  attempts := hs.attempts
  body := hs.body
  queue := hs.queue
  history := by simpa [HistoryOk, written] using hs.history
  job := hs.job

/-- A drain empties the queue and writes nothing (R54). -/
theorem stateInv_rxDrain {s : State} (hs : StateInv s) : StateInv (rxDrain s) where
  pend := hs.pend
  attempts := hs.attempts
  body := hs.body
  queue _ _ := Nat.zero_le _
  history := by simpa [HistoryOk, written] using hs.history
  job := hs.job

/-- A write stands in both histories (R55, R69). -/
theorem stateInv_txPut {s : State} (bs : List Byte) (hs : StateInv s) : StateInv (txPut bs s) where
  pend := hs.pend
  attempts := hs.attempts
  body := hs.body
  queue := hs.queue
  history := by
    have hh : s.txlog = s.events.flatMap written := hs.history
    simp [HistoryOk, written, hh]
  job := hs.job

/-- The flags are free of the invariant (R28). -/
theorem stateInv_flags {s : State} (c d : Bool) (hs : StateInv s) : StateInv { s with chkOk := c, hadStale := d } :=
  ⟨hs.pend, hs.attempts, hs.body, hs.queue, hs.history, hs.job⟩

/-- Outside the send phases no send is in progress (R35 (1)). -/
theorem pend_eq_none {s : State} (hs : StateInv s) (hp : sendPhase s.phase = false) : s.pend = none := by
  have hpend : s.pend.isSome = sendPhase s.phase := hs.pend
  rwa [hp, Option.isSome_eq_false_iff, Option.isNone_iff_eq_none] at hpend

/-- In the send phases a send is in progress (R35 (1)). -/
theorem pend_isSome {s : State} (hs : StateInv s) (hp : sendPhase s.phase = true) : s.pend.isSome = true :=
  hs.pend.trans hp

/-- No send phase holds a body that is being received. -/
theorem bodyOk_of_sendPhase {s : State} (hp : sendPhase s.phase = true) : BodyOk s :=
  ⟨fun h => by simp [h, sendPhase] at hp, fun h => by simp [h, sendPhase] at hp⟩

/-- The next send phase: the send goes on, with the attempts of that phase (R35 (1), (2)). -/
theorem stateInv_nextSend {s : State} {ph : Phase} {p : Option Pending} (hs : StateInv s) (hph : sendPhase ph = true)
    (hp : p.isSome = true) (ha : ∀ q ∈ p, q.attempts = attemptsIn ph) : StateInv { s with phase := ph, pend := p } where
  pend := hp.trans hph.symm
  attempts := ha
  body := bodyOk_of_sendPhase hph
  queue := hs.queue
  history := hs.history
  job := hs.job

/-- A handshake wait of the next phase, with that phase's attempts (R153, R155, R157). -/
theorem stateInv_armWait {s : State} {ph : Phase} (hs : StateInv s) (hp : sendPhase s.phase = true)
    (hph : sendPhase ph = true) (ms : Nat) : StateInv { armWait (attemptsIn ph) ms s with phase := ph } := by
  refine stateInv_nextSend (s := s) hs hph ?_ ?_
  · simpa using pend_isSome hs hp
  · simp

/-- The back-off keeps the one attempt of the first wait (R156). -/
theorem stateInv_armBackoff {s : State} (hs : StateInv s) (hp : s.phase = .sendWait1) :
    StateInv { armBackoff s with phase := .sendBackoff } := by
  refine stateInv_nextSend (s := s) hs rfl ?_ ?_
  · simpa using pend_isSome hs (by rw [hp]; rfl)
  · have ha : ∀ p ∈ s.pend, p.attempts = attemptsIn s.phase := hs.attempts
    simpa [hp, attemptsIn] using ha

/-- The next receive phase: still no send, and a body as the phase asks (R35 (1), (3)). -/
theorem stateInv_nextRecv {s : State} {ph : Phase} {l : Byte} {buf : List Byte} {d : Option Nat} (hs : StateInv s)
    (hp : sendPhase s.phase = false) (hph : sendPhase ph = false)
    (hb : (ph = .recvBody → buf.length < follow s.par.lenBias l) ∧
      (ph = .recvAck → buf.length = follow s.par.lenBias l)) :
    StateInv { s with phase := ph, rxLen := l, rxBuf := buf, byteDeadline := d } where
  pend := by simp [PendOk, pend_eq_none hs hp, hph]
  attempts := by simp [AttemptsOk, pend_eq_none hs hp]
  body := hb
  queue := hs.queue
  history := hs.history
  job := hs.job

/-- The end of an operation: `Idle` and no send (R230, R242). -/
theorem stateInv_finishOp {s : State} (r : OpResult) (hs : StateInv s) : StateInv (finishOp r s) where
  pend := rfl
  attempts := by simp [AttemptsOk]
  body := ⟨nofun, nofun⟩
  queue := hs.queue
  history := hs.history
  job := fun h => by simpa using hs.job h

/-- A received byte keeps the invariant in every phase (R134 to R136, R154, R156, R158, R159). -/
theorem stateInv_react {s : State} (b : Byte) (hs : StateInv s) : StateInv (react b s) := by
  rcases react_cases b s with ⟨-, -, he⟩ | ⟨hp, -, he⟩ | ⟨hp, hf, he⟩ | ⟨hp, hf, he⟩ | ⟨hp, hl, he⟩ | ⟨hp, hl, he⟩ |
    ⟨hp, -, he⟩ | ⟨-, -, -, -, r, he⟩ | ⟨-, he⟩ <;> rw [he]
  · exact hs
  · exact stateInv_nextRecv hs (by rw [hp]; rfl) rfl ⟨nofun, nofun⟩
  · exact stateInv_nextRecv hs (by rw [hp]; rfl) rfl ⟨nofun, fun _ => hf.symm⟩
  · exact stateInv_nextRecv hs (by rw [hp]; rfl) rfl ⟨fun _ => Nat.pos_of_ne_zero hf, nofun⟩
  · exact stateInv_nextRecv hs (by rw [hp]; rfl) rfl ⟨nofun, fun _ => by simpa using hl⟩
  · refine stateInv_nextRecv hs (by rw [hp]; rfl) (by rw [hp]; rfl) ⟨fun _ => ?_, fun h => nomatch hp.symm.trans h⟩
    have hlt := hs.body.1 hp
    simp only [List.length_append, List.length_cons, List.length_nil]
    omega
  · exact stateInv_armBackoff (stateInv_txPut _ hs) hp
  · exact stateInv_finishOp r hs
  · exact hs

/-- A timeout keeps the invariant (R136, R155, R232, R234, R235). -/
theorem stateInv_onTimeout {s : State} (hr : s.phase.reads = true) (hs : StateInv s) : StateInv (onTimeout s) := by
  rcases onTimeout_cases s hr with ⟨hp, he⟩ | ⟨hp, he⟩ | ⟨-, -, k, he⟩ <;> rw [he]
  · exact stateInv_armWait (ph := .sendWait2T) (stateInv_txPut _ (stateInv_txPut _ hs))
      (by simp [hp, sendPhase]) rfl _
  · have hf := stateInv_finishOp (.err .frameBodyTimeout []) hs
    exact ⟨hf.pend, hf.attempts, ⟨nofun, nofun⟩, hf.queue, hf.history, hf.job⟩
  · exact stateInv_finishOp _ hs

/-- The pre-send drain and its `ACK` keep the invariant (R153). -/
theorem stateInv_preSend {s : State} (hs : StateInv s) : StateInv (preSend s) := by
  unfold preSend
  split
  · exact stateInv_txPut _ (stateInv_flags _ _ (stateInv_rxDrain hs))
  · exact stateInv_flags _ _ (stateInv_rxDrain hs)

/-- The pre-send drain stays in its phase. -/
theorem preSend_phase (s : State) : (preSend s).phase = s.phase := by
  unfold preSend
  split <;> rfl

/-- The issue of `sendFrame`: a send with no attempt made (R150). -/
theorem stateInv_beginSend {s : State} (f : List Byte) {e : Option Exchange} {j : Option Job} (hj : j.isSome → e.isSome)
    (hs : StateInv s) : StateInv (beginSend f { s with exch := e, job := j }) where
  pend := rfl
  attempts p hp := by
    obtain rfl := Option.some.inj hp
    rfl
  body := ⟨nofun, nofun⟩
  queue := hs.queue
  history := hs.history
  job := hj

/-- A hunt begins over an idle block, where no send is in progress (R130). -/
theorem stateInv_beginHunt {s : State} {ph : Phase} {d : Nat} {e : Option Exchange} {j : Option Job}
    (hp : s.phase = .idle) (hph : ph = .syncOnly ∨ ph = .recvSync) (hj : j.isSome → e.isSome) (hs : StateInv s) :
    StateInv { s with syncDeadline := d, phase := ph, exch := e, job := j } where
  pend := by
    have hn : s.pend = none := pend_eq_none hs (by rw [hp]; rfl)
    rcases hph with rfl | rfl <;> simp [PendOk, hn, sendPhase]
  attempts := by
    have hn : s.pend = none := pend_eq_none hs (by rw [hp]; rfl)
    simp [AttemptsOk, hn]
  body := by rcases hph with rfl | rfl <;> exact ⟨nofun, nofun⟩
  queue := hs.queue
  history := hs.history
  job := hj

/-- The end of a host operation takes its exchange with it (R190). -/
theorem stateInv_jobDone {s : State} (r : OpResult) (hs : StateInv s) : StateInv (jobDone r s) :=
  ⟨hs.pend, hs.attempts, hs.body, hs.queue, hs.history, nofun⟩

/-- The invariant is a relation from step to step that every act respects. -/
theorem stateInv_respectsActs : RespectsActs fun s t => StateInv s → StateInv t where
  trans _ _ _ hst htu hs := htu (hst hs)
  quiet _ _ := stateInv_quiet
  append _ _ := stateInv_append
  read _ b _ _ hq hs := stateInv_react b (stateInv_rxTake hq hs)
  timeout _ hr _ _ hs := stateInv_onTimeout hr (stateInv_rxNone hs)
  startSend _ hp hs := stateInv_armWait (ph := .sendWait1) (stateInv_txPut _ (stateInv_preSend hs))
    (by simp [preSend_phase, hp, sendPhase]) rfl _
  resumeSend _ hp _ hs := stateInv_armWait (ph := .sendWait2N) (stateInv_txPut _ (stateInv_rxDrain hs))
    (by simp [hp, sendPhase]) rfl _
  finishReceive s _ hs := stateInv_finishOp _ (stateInv_txPut _ (stateInv_flags _ s.hadStale hs))
  answer _ _ hs := ⟨hs.pend, hs.attempts, hs.body, hs.queue, hs.history, hs.job⟩
  beginSend _ f _ _ _ hj := stateInv_beginSend f hj
  beginSync s _ hp hs := stateInv_beginHunt (e := s.exch) (j := s.job) hp (.inl rfl) hs.job hs
  beginReceive s _ _ _ hp hj hs := stateInv_beginHunt (s := s) hp (.inr rfl) hj hs
  jobDone _ r _ := stateInv_jobDone r

/-- Settles O49: each act keeps the invariant, so every step does. -/
theorem everyStepKeepsTheInvariant : Obligations.EveryStepKeepsTheInvariant :=
  fun _ _ hs ht => step_respects stateInv_respectsActs ht hs

/-- Settles O48: nothing is in progress, nothing was written, and the queue is unbounded at reset (R36). -/
theorem invariantHoldsAtReset : Obligations.InvariantHoldsAtReset where
  pend := rfl
  attempts := nofun
  body := ⟨nofun, nofun⟩
  queue := nofun
  history := rfl
  job := nofun

end Sys2Proof.Machine
end

section
/-! PROOF. What every step respects: time and histories, transmissions, the send, outcomes, the flags (R28, R29, R35, R55,
R161, R230). -/

namespace Sys2Proof.Machine

open Safety

/-! ### Time and the histories only grow (R29, R32, R35 (4)) -/

/-- A byte that is received adds to the histories (R134 to R136, R154, R156, R158, R159). -/
theorem grows_react (b : Byte) (s : State) : Grows s (react b s) := by
  rcases react_cases b s with ⟨-, -, he⟩ | ⟨-, -, he⟩ | ⟨-, -, he⟩ | ⟨-, -, he⟩ | ⟨-, -, he⟩ | ⟨-, -, he⟩ | ⟨-, -, he⟩ |
    ⟨-, -, -, -, r, he⟩ | ⟨-, he⟩ <;> rw [he] <;> constructor <;> simp

/-- So does a timeout. -/
theorem grows_onTimeout {s : State} (hr : s.phase.reads = true) : Grows s (onTimeout s) := by
  rcases onTimeout_cases s hr with ⟨-, he⟩ | ⟨-, he⟩ | ⟨-, -, k, he⟩ <;> rw [he]
  · rw [onSendTimeout_eq]
    constructor <;> simp
  · constructor <;> simp
  · constructor <;> simp

theorem grows_trans {s t u : State} (h : Grows s t) (h' : Grows t u) : Grows s u :=
  ⟨Nat.le_trans h.now h'.now, h.txlog.trans h'.txlog, h.events.trans h'.events, h.outlog.trans h'.outlog, h'.par.trans h.par⟩

/-- Growth is a relation from step to step that every act respects. -/
theorem grows_respectsActs : RespectsActs Grows where
  trans _ _ _ := grows_trans
  quiet := by
    rintro s _ ⟨l, n, m, hn, rfl⟩
    exact ⟨hn, List.prefix_rfl, List.prefix_rfl, List.prefix_rfl, rfl⟩
  append _ _ _ := by constructor <;> simp
  read b q s _ _ := grows_trans (t := rxTake _ _ _) (by constructor <;> simp) (grows_react _ _)
  timeout s hr _ _ := grows_trans (t := rxNone s) (by constructor <;> simp) (grows_onTimeout hr)
  startSend s _ := by rw [startSend_eq]; constructor <;> simp
  resumeSend s _ _ := by rw [resumeSend_eq]; constructor <;> simp
  finishReceive s _ := by rw [finishReceive]; constructor <;> simp
  answer _ _ := by constructor <;> simp
  beginSend _ _ _ _ _ _ := by constructor <;> simp
  beginSync _ _ _ := by constructor <;> simp
  beginReceive _ _ _ _ _ _ := by constructor <;> simp
  jobDone _ _ _ := by constructor <;> simp

/-- Settles O50: each act adds to the histories, so every step does. -/
theorem historiesOnlyGrow : Obligations.HistoriesOnlyGrow :=
  fun _ _ h => step_respects grows_respectsActs h

/-! ### The reads of an arrival, up to the one that ends them -/

/-- A byte was dropped or kept: nothing was written, handed over, given up or flagged, and no operation ended. -/
structure OnlyReceives (s t : State) : Prop where
  txlog : t.txlog = s.txlog
  outlog : t.outlog = s.outlog
  pend : t.pend = s.pend
  chkOk : t.chkOk = s.chkOk
  hadStale : t.hadStale = s.hadStale
  idle : t.phase = .idle → s.phase = .idle

/-- A received byte is dropped or kept, or it starts the back-off, or it ends the operation with one outcome (R134 to R136,
R154, R156, R158, R159). -/
theorem react_receives_or_ends (b : Byte) (s : State) : OnlyReceives s (react b s) ∨
    react b s = { armBackoff (txAck s) with phase := .sendBackoff } ∨ ∃ r, react b s = finishOp r s := by
  rcases react_cases b s with ⟨-, -, he⟩ | ⟨-, -, he⟩ | ⟨-, -, he⟩ | ⟨-, -, he⟩ | ⟨-, -, he⟩ | ⟨-, -, he⟩ | ⟨-, -, he⟩ |
    ⟨-, -, -, -, r, he⟩ | ⟨-, he⟩
  · exact .inl (by rw [he]; exact ⟨rfl, rfl, rfl, rfl, rfl, id⟩)
  · exact .inl (by rw [he]; exact ⟨rfl, rfl, rfl, rfl, rfl, nofun⟩)
  · exact .inl (by rw [he]; exact ⟨rfl, rfl, rfl, rfl, rfl, nofun⟩)
  · exact .inl (by rw [he]; exact ⟨rfl, rfl, rfl, rfl, rfl, nofun⟩)
  · exact .inl (by rw [he]; exact ⟨rfl, rfl, rfl, rfl, rfl, nofun⟩)
  · exact .inl (by rw [he]; exact ⟨rfl, rfl, rfl, rfl, rfl, id⟩)
  · exact .inr (.inl he)
  · exact .inr (.inr ⟨r, he⟩)
  · exact .inl (by rw [he]; exact ⟨rfl, rfl, rfl, rfl, rfl, id⟩)

/-- A byte after which Transport goes on reading was dropped or kept. -/
theorem react_goesOn {b : Byte} {s : State} (h : (react b s).phase.reads = true) : OnlyReceives s (react b s) := by
  rcases react_receives_or_ends b s with hr | he | ⟨r, he⟩
  · exact hr
  · rw [he] at h
    exact nomatch h
  · rw [he] at h
    exact nomatch h

/-- The reads of an arrival: none; or bytes after which Transport goes on reading, and one after which it does not. -/
theorem readQueued_induct {R : State → State → Prop} (refl : ∀ s, R s s)
    (stop : ∀ b q s, s.phase.reads = true → s.rxq = b :: q → R s (react b (rxTake b q s)))
    (goOn : ∀ b q s u, s.phase.reads = true → s.rxq = b :: q → (react b (rxTake b q s)).phase.reads = true →
      R (react b (rxTake b q s)) u → R s u) : ∀ n s, R s (readQueued n s) := by
  intro n
  induction n with
  | zero => exact refl
  | succ n ih =>
    intro s
    by_cases hr : s.phase.reads = true
    · cases hq : s.rxq with
      | nil =>
        have he : readQueued (n + 1) s = s := by simp [readQueued, hr, hq]
        rw [he]
        exact refl s
      | cons b q =>
        rw [readQueued_succ hr hq]
        by_cases hr' : (react b (rxTake b q s)).phase.reads = true
        · exact goOn b q s _ hr hq hr' (ih _)
        · rw [readQueued_of_not_reads (by simpa using hr')]
          exact stop b q s hr hq
    · rw [readQueued_of_not_reads (by simpa using hr)]
      exact refl s

/-! ### What one step transmits (R55, R84, R161) -/

/-- What a step may transmit. -/
def Transmits (s t : State) : Prop :=
  ∃ tx : List Byte, t.txlog = s.txlog ++ tx ∧
    (tx = [] ∨ tx = [0x06#8] ∨ ∃ p ∈ s.pend, tx = p.frame ∨ tx = 0x06#8 :: p.frame)

/-- Nothing is transmitted. -/
theorem transmits_none {s t : State} (h : t.txlog = s.txlog) : Transmits s t :=
  ⟨[], by simp [h], .inl rfl⟩

/-- One `ACK`. -/
theorem transmits_ack {s t : State} (h : t.txlog = s.txlog ++ [0x06#8]) : Transmits s t :=
  ⟨[0x06#8], h, .inr (.inl rfl)⟩

/-- The frame of the send in progress, with or without an `ACK` before it. -/
theorem transmits_frame {s t : State} (h : t.txlog = s.txlog ++ pendFrame s ∨ t.txlog = s.txlog ++ 0x06#8 :: pendFrame s) :
    Transmits s t := by
  cases hp : s.pend with
  | none =>
    have hf : pendFrame s = [] := by rw [pendFrame, hp]
    rw [hf] at h
    exact h.elim (fun h => transmits_none (by simpa using h)) transmits_ack
  | some p =>
    rw [pendFrame_of_some hp] at h
    exact h.elim (fun h => ⟨_, h, .inr (.inr ⟨p, hp, .inl rfl⟩)⟩) fun h => ⟨_, h, .inr (.inr ⟨p, hp, .inr rfl⟩)⟩

/-- A byte that is received is answered by one `ACK` or by nothing (R156). -/
theorem transmits_react (b : Byte) (q : List Byte) (s : State) : Transmits s (react b (rxTake b q s)) := by
  rcases react_receives_or_ends b (rxTake b q s) with h | he | ⟨r, he⟩
  · exact transmits_none h.txlog
  · exact transmits_ack (by rw [he]; rfl)
  · exact transmits_none (by rw [he]; rfl)

/-- What an act transmits. -/
theorem transmits_act {s t : State} (h : Act s t) : Transmits s t := by
  cases h with
  | read b q => exact transmits_react b q s
  | timeout hr =>
    rcases onTimeout_cases (rxNone s) hr with ⟨-, he⟩ | ⟨-, he⟩ | ⟨-, -, k, he⟩ <;> rw [he]
    · rw [onSendTimeout_eq]
      exact transmits_frame (.inr rfl)
    · exact transmits_none rfl
    · exact transmits_none rfl
  | startSend =>
    rw [startSend_eq]
    refine transmits_frame ?_
    by_cases hq : s.rxq = []
    · exact .inl (by simp [hq])
    · exact .inr (by simp [hq])
  | resumeSend =>
    rw [resumeSend_eq]
    exact transmits_frame (.inl rfl)
  | finishReceive => exact transmits_ack rfl
  | _ => exact transmits_none rfl

/-- What the reads of an arrival transmit. -/
theorem transmits_readQueued : ∀ n s, Transmits s (readQueued n s) :=
  readQueued_induct (fun _ => transmits_none rfl) (fun b q s _ _ => transmits_react b q s) fun b q s u _ _ hr h => by
    have hon := react_goesOn hr
    obtain ⟨tx, ht, hcases⟩ := h
    rw [hon.txlog] at ht
    rw [hon.pend] at hcases
    exact ⟨tx, ht, hcases⟩

/-- Settles O51: what each act transmits, and what the reads of an arrival do. -/
theorem onlyAckAndTheFrameAreTransmitted : Obligations.OnlyAckAndTheFrameAreTransmitted := by
  intro s t h
  rcases step_act h with ⟨l, n, m, -, rfl⟩ | ⟨l, ha | ⟨-, bs, -, rfl⟩⟩
  · exact transmits_none rfl
  · exact transmits_act (s := { s with sched := l }) ha
  · exact transmits_readQueued _ { s with sched := l, rxq := s.rxq ++ bs }

/-! ### The send in progress (R25, R161 (1)) -/

/-- A send is kept, with its bytes and no fewer attempts, or given up with an outcome. -/
def KeepsSend (p : Pending) (s t : State) : Prop :=
  (∃ q, t.pend = some q ∧ q.frame = p.frame ∧ p.attempts ≤ q.attempts) ∨
  (t.pend = none ∧ t.phase = .idle ∧ ∃ r, t.outlog = s.outlog ++ [r])

/-- The send is as it was. -/
theorem keepsSend_same {p : Pending} {s t : State} (h : t.pend = some p) : KeepsSend p s t :=
  .inl ⟨p, h, rfl, Nat.le_refl _⟩

/-- A byte that is received keeps the send or ends it. -/
theorem keepsSend_react {p : Pending} {s : State} (b : Byte) (q : List Byte) (hp : s.pend = some p) :
    KeepsSend p s (react b (rxTake b q s)) := by
  rcases react_receives_or_ends b (rxTake b q s) with h | he | ⟨r, he⟩
  · exact keepsSend_same (h.pend.trans hp)
  · rw [he]
    exact .inl ⟨{ p with deadline := s.now + Config.tBackoff }, by simp [hp], rfl, Nat.le_refl _⟩
  · rw [he]
    exact .inr ⟨rfl, rfl, r, rfl⟩

/-- In each act the send is kept or ended; the invariant gives the attempts so far. -/
theorem keepsSend_act {p : Pending} {s t : State} (hs : StateInv s) (hp : s.pend = some p) (h : Act s t) :
    KeepsSend p s t := by
  have hatt : p.attempts = attemptsIn s.phase := hs.attempts p hp
  have hidle : s.phase ≠ .idle := fun h => by
    have hnone := pend_eq_none hs (by rw [h]; rfl)
    exact nomatch hp.symm.trans hnone
  cases h with
  | read b q => exact keepsSend_react b q hp
  | timeout hr =>
    rcases onTimeout_cases (rxNone s) hr with ⟨hph, he⟩ | ⟨-, he⟩ | ⟨-, -, k, he⟩ <;> rw [he]
    · rw [rxNone_phase] at hph
      rw [onSendTimeout_eq]
      exact .inl ⟨{ p with attempts := 2, deadline := s.now + 1500 }, by simp [hp], rfl, by simp [hatt, hph, attemptsIn]⟩
    · exact .inr ⟨rfl, rfl, _, rfl⟩
    · exact .inr ⟨rfl, rfl, _, rfl⟩
  | startSend hph =>
    rw [startSend_eq]
    exact .inl ⟨{ p with attempts := 1, deadline := s.now + 500 }, by simp [hp], rfl, by simp [hatt, hph, attemptsIn]⟩
  | resumeSend hph =>
    rw [resumeSend_eq]
    exact .inl ⟨{ p with attempts := 2, deadline := s.now + 500 }, by simp [hp], rfl, by simp [hatt, hph, attemptsIn]⟩
  | finishReceive => exact .inr ⟨rfl, rfl, _, rfl⟩
  | none => exact keepsSend_same hp
  | append => exact keepsSend_same hp
  | answer => exact keepsSend_same hp
  | jobDone => exact keepsSend_same hp
  | beginSend f e j hph => exact absurd hph hidle
  | beginSync n hph => exact absurd hph hidle
  | beginReceive n e j hph => exact absurd hph hidle

/-- In the reads of an arrival the send is kept or ended. -/
theorem keepsSend_readQueued (p : Pending) : ∀ n s, s.pend = some p → KeepsSend p s (readQueued n s) :=
  readQueued_induct (R := fun s t => s.pend = some p → KeepsSend p s t) (fun _ hp => keepsSend_same hp)
    (fun b q _ _ _ hp => keepsSend_react b q hp) fun b q s u _ _ hr h hp => by
      have hon := react_goesOn hr
      rcases h (hon.pend.trans hp) with hkept | ⟨hn, hi, r, ho⟩
      · exact .inl hkept
      · exact .inr ⟨hn, hi, r, by rw [ho, hon.outlog]; rfl⟩

/-- Settles O52: the send through each act, and through the reads of an arrival. -/
theorem pendingFrameNeverChanges : Obligations.PendingFrameNeverChanges := by
  intro s t p hs hp h
  rcases step_act h with ⟨l, n, m, -, rfl⟩ | ⟨l, ha | ⟨-, bs, -, rfl⟩⟩
  · exact keepsSend_same hp
  · exact keepsSend_act (s := { s with sched := l }) (stateInv_quiet (quiet_sched s l) hs) hp ha
  · exact keepsSend_readQueued p _ { s with sched := l, rxq := s.rxq ++ bs } hp

/-! ### Outcomes (R230, R242) -/

/-- An operation in progress ends with one outcome, `Idle` and no send. -/
def EndsWithOutcome (s t : State) : Prop :=
  s.phase ≠ .idle → t.phase = .idle → t.pend = none ∧ ∃ r, t.outlog = s.outlog ++ [r]

/-- The end of an operation. -/
theorem endsWithOutcome_finishOp {s t : State} (r : OpResult) (h : t.outlog = s.outlog) : EndsWithOutcome s (finishOp r t) :=
  fun _ _ => ⟨rfl, r, by rw [finishOp_outlog, h]⟩

/-- A byte that is received ends an operation by its outcome only. -/
theorem endsWithOutcome_react (b : Byte) (q : List Byte) (s : State) : EndsWithOutcome s (react b (rxTake b q s)) := by
  rcases react_receives_or_ends b (rxTake b q s) with h | he | ⟨r, he⟩
  · exact fun hne hidle => absurd (h.idle hidle) hne
  · rw [he]
    exact fun _ hidle => nomatch hidle
  · rw [he]
    exact endsWithOutcome_finishOp r rfl

/-- An act ends an operation by its outcome only. -/
theorem endsWithOutcome_act {s t : State} (h : Act s t) : EndsWithOutcome s t := by
  cases h with
  | read b q => exact endsWithOutcome_react b q s
  | timeout hr =>
    rcases onTimeout_cases (rxNone s) hr with ⟨-, he⟩ | ⟨-, he⟩ | ⟨-, -, k, he⟩ <;> rw [he]
    · exact fun _ h => nomatch h
    · exact endsWithOutcome_finishOp _ rfl
    · exact endsWithOutcome_finishOp _ rfl
  | finishReceive => exact endsWithOutcome_finishOp _ rfl
  | startSend => exact fun _ h => nomatch h
  | resumeSend => exact fun _ h => nomatch h
  | beginSend => exact fun _ h => nomatch h
  | beginSync => exact fun _ h => nomatch h
  | beginReceive => exact fun _ h => nomatch h
  | _ => exact fun hne h => absurd h hne

/-- The reads of an arrival end an operation by its outcome only. -/
theorem endsWithOutcome_readQueued : ∀ n s, EndsWithOutcome s (readQueued n s) :=
  readQueued_induct (fun _ hne h => absurd h hne) (fun b q s _ _ => endsWithOutcome_react b q s)
    fun b q s u _ _ hr h _ hidle => by
      obtain ⟨hnone, r, ho⟩ := h (fun hp => by rw [hp] at hr; exact nomatch hr) hidle
      exact ⟨hnone, r, by rw [ho, (react_goesOn hr).outlog]; rfl⟩

/-- Settles O55: the end in each act, and in the reads of an arrival. -/
theorem operationsEndWithOneOutcome : Obligations.OperationsEndWithOneOutcome := by
  intro s t h
  rcases step_act h with ⟨l, n, m, -, rfl⟩ | ⟨l, ha | ⟨-, bs, -, rfl⟩⟩
  · exact fun hne h => absurd h hne
  · exact endsWithOutcome_act (s := { s with sched := l }) ha
  · exact endsWithOutcome_readQueued _ { s with sched := l, rxq := s.rxq ++ bs }

/-! ### The flags (R28) -/

/-- No byte that is received writes a flag. -/
theorem react_flags (b : Byte) (s : State) : (react b s).chkOk = s.chkOk ∧ (react b s).hadStale = s.hadStale := by
  rcases react_receives_or_ends b s with h | he | ⟨r, he⟩
  · exact ⟨h.chkOk, h.hadStale⟩
  · rw [he]
    exact ⟨rfl, rfl⟩
  · rw [he]
    exact ⟨rfl, rfl⟩

/-- No timeout writes a flag. -/
theorem onTimeout_flags {s : State} (hr : s.phase.reads = true) :
    (onTimeout s).chkOk = s.chkOk ∧ (onTimeout s).hadStale = s.hadStale := by
  rcases onTimeout_cases s hr with ⟨-, he⟩ | ⟨-, he⟩ | ⟨-, -, k, he⟩ <;> rw [he] <;> exact ⟨rfl, rfl⟩

/-- The reads of an arrival write no flag. -/
theorem readQueued_flags : ∀ n s, (readQueued n s).chkOk = s.chkOk ∧ (readQueued n s).hadStale = s.hadStale :=
  readQueued_rel (R := fun s t => t.chkOk = s.chkOk ∧ t.hadStale = s.hadStale) (fun _ => ⟨rfl, rfl⟩)
    (fun _ _ _ h h' => ⟨h'.1.trans h.1, h'.2.trans h.2⟩) fun b q s _ _ => react_flags b (rxTake b q s)

/-- Settles O56: only the acts in `RecvAck` and `SendStart` write a flag. -/
theorem flagsAreWrittenInOnePhaseOnly : Obligations.FlagsAreWrittenInOnePhaseOnly := by
  intro s t h
  rcases step_act h with ⟨l, n, m, -, rfl⟩ | ⟨l, ha | ⟨-, bs, -, rfl⟩⟩
  · exact ⟨fun _ => rfl, fun _ => rfl⟩
  · cases ha with
    | read b q =>
      obtain ⟨hc, hst⟩ := react_flags b (rxTake b q { s with sched := l })
      exact ⟨fun _ => hc, fun _ => hst⟩
    | timeout hr =>
      obtain ⟨hc, hst⟩ := onTimeout_flags (s := rxNone { s with sched := l }) hr
      exact ⟨fun _ => hc, fun _ => hst⟩
    | startSend hp =>
      rw [startSend_eq]
      exact ⟨fun _ => rfl, fun hne => absurd hp hne⟩
    | finishReceive hp => exact ⟨fun hne => absurd hp hne, fun _ => rfl⟩
    | _ => exact ⟨fun _ => rfl, fun _ => rfl⟩
  · obtain ⟨hc, hst⟩ := readQueued_flags bs.length { s with sched := l, rxq := s.rxq ++ bs }
    exact ⟨fun _ => hc, fun _ => hst⟩

end Sys2Proof.Machine
end

section
/-! PROOF. The transitions of the phase, by the two tables (R140, R162). -/

namespace Sys2Proof.Machine

/-- The rows of the two tables that leave their phase (R27, R140, R162). -/
abbrev TableRow (p : Phase × Phase) : Prop :=
  p ∈ [(Phase.idle, Phase.sendStart), (.idle, .syncOnly), (.idle, .recvSync),
    (.syncOnly, .idle), (.recvSync, .recvLen), (.recvSync, .idle), (.recvLen, .recvBody), (.recvLen, .recvAck),
    (.recvLen, .idle), (.recvBody, .recvAck), (.recvBody, .idle), (.recvAck, .idle),
    (.sendStart, .sendWait1), (.sendWait1, .idle), (.sendWait1, .sendWait2T), (.sendWait1, .sendBackoff),
    (.sendBackoff, .sendWait2N), (.sendWait2T, .idle), (.sendWait2N, .idle)]

/-- Every wait of Transport's may end in `Idle`. -/
theorem tableRow_idle {ph : Phase} (h : ph.reads = true) : TableRow (ph, .idle) := by
  revert h
  cases ph <;> decide

/-- The phase is kept or moves by a row of a table. -/
abbrev MovesByTable (s t : State) : Prop := t.phase = s.phase ∨ TableRow (s.phase, t.phase)

/-- From a phase to another one by a row. -/
theorem movesByTable_row {s t : State} (a b : Phase) (ha : s.phase = a) (hb : t.phase = b) (h : TableRow (a, b)) :
    MovesByTable s t :=
  .inr (by rw [ha, hb]; exact h)

/-- A received byte moves by a row of R140 or R162. -/
theorem movesByTable_react {b : Byte} {q : List Byte} {s : State} : MovesByTable s (react b (rxTake b q s)) := by
  rcases react_cases b (rxTake b q s) with ⟨-, -, he⟩ | ⟨hp, -, he⟩ | ⟨hp, -, he⟩ | ⟨hp, -, he⟩ | ⟨hp, -, he⟩ |
    ⟨-, -, he⟩ | ⟨hp, -, he⟩ | ⟨hr, -, -, -, r, he⟩ | ⟨-, he⟩ <;> rw [he]
  · exact .inl rfl
  · exact movesByTable_row .recvSync .recvLen hp rfl (by decide)
  · exact movesByTable_row .recvLen .recvAck hp rfl (by decide)
  · exact movesByTable_row .recvLen .recvBody hp rfl (by decide)
  · exact movesByTable_row .recvBody .recvAck hp rfl (by decide)
  · exact .inl rfl
  · exact movesByTable_row .sendWait1 .sendBackoff hp rfl (by decide)
  · exact .inr (tableRow_idle hr)
  · exact .inl rfl

/-- An act moves by a row of R140 or R162. -/
theorem movesByTable_act {s t : State} (h : Act s t) : MovesByTable s t := by
  cases h with
  | read b q => exact movesByTable_react
  | timeout hr =>
    rcases onTimeout_cases (rxNone s) hr with ⟨hp, he⟩ | ⟨-, he⟩ | ⟨-, -, k, he⟩ <;> rw [he]
    · exact movesByTable_row .sendWait1 .sendWait2T hp rfl (by decide)
    · exact .inr (tableRow_idle hr)
    · exact .inr (tableRow_idle hr)
  | startSend hp => exact movesByTable_row .sendStart .sendWait1 hp rfl (by decide)
  | resumeSend hp => exact movesByTable_row .sendBackoff .sendWait2N hp rfl (by decide)
  | finishReceive hp => exact movesByTable_row .recvAck .idle hp rfl (by decide)
  | beginSend f e j hp => exact movesByTable_row .idle .sendStart hp rfl (by decide)
  | beginSync n hp => exact movesByTable_row .idle .syncOnly hp rfl (by decide)
  | beginReceive n e j hp => exact movesByTable_row .idle .recvSync hp rfl (by decide)
  | _ => exact .inl rfl

/-- Settles O54: each act by its row; the arrivals are excluded. -/
theorem onlyTheTablesTransitions : Obligations.OnlyTheTablesTransitions := by
  intro s t h hlink hop
  rcases step_act h with ⟨l, n, m, -, rfl⟩ | ⟨l, ha | ⟨⟨im, rest, hs, hunit⟩, -⟩⟩
  · exact .inl rfl
  · exact movesByTable_act (s := { s with sched := l }) ha
  · rcases hunit with ⟨bytes, rfl⟩ | ⟨i, bytes, rfl, hi⟩
    · exact absurd hs (hlink bytes rest)
    · rcases hop i rest with hne | hno
      · exact absurd hs hne
      · exact absurd hi (hno bytes)

end Sys2Proof.Machine
end

section
/-! PROOF. The receive queue: who takes bytes, and where (R31, R35 (5), R51, R54). -/

namespace Sys2Proof.Machine

/-! ### What each operation leaves of the queue -/

/-- A timeout takes no byte (R53). -/
theorem onTimeout_rxq {s : State} (hr : s.phase.reads = true) : (onTimeout s).rxq = s.rxq := by
  rcases onTimeout_cases s hr with ⟨-, he⟩ | ⟨-, he⟩ | ⟨-, -, k, he⟩ <;> rw [he] <;> rfl

/-- The step in `SendStart` takes every byte (R153). -/
theorem startSend_rxq (s : State) : (startSend s).rxq = [] := by rw [startSend_eq]

/-- A step of Transport takes bytes at the head only. -/
theorem transportStep_rxq {s t : State} (h : transportStep s = some t) : t.rxq <:+ s.rxq := by
  rcases transportStep_some h with ⟨-, b, q, hq, rfl⟩ | ⟨hr, -, -, rfl⟩ | ⟨-, rfl⟩ | ⟨-, -, rfl⟩ | ⟨-, rfl⟩
  · rw [react_rxq, rxTake_rxq, hq]
    exact List.suffix_cons b q
  · rw [onTimeout_rxq (s := rxNone s) hr]
    exact List.suffix_rfl
  · rw [startSend_rxq]
    exact List.nil_suffix
  · exact List.nil_suffix
  · exact List.suffix_rfl

/-- The reads of an arrival take bytes at the head only (R89). -/
theorem readQueued_rxq : ∀ n s, (readQueued n s).rxq <:+ s.rxq :=
  readQueued_rel (R := fun s t => t.rxq <:+ s.rxq) (fun _ => List.suffix_rfl) (fun _ _ _ h h' => h'.trans h)
    fun b q s _ hq => by
      rw [react_rxq, rxTake_rxq, hq]
      exact List.suffix_cons b q

/-- An arrival leaves a tail of the queue and of its own bytes behind it (R51, R89). -/
theorem receiveUnit_rxq {bs : List Byte} {s t : State} (h : receiveUnit bs s = .next t) : t.rxq <:+ s.rxq ++ bs := by
  obtain ⟨-, rfl⟩ := receiveUnit_next h
  exact readQueued_rxq _ _

/-- A `call` takes no byte (R181). -/
theorem startCall_rxq (p : List Byte) (e : Bool) (n : Nat) (s : State) : (startCall p e n s).rxq = s.rxq := by
  by_cases hs : s.free = true
  · by_cases hp : p.length ≤ maxPayload s.par.lenBias
    · rw [startCall_of_free hs hp]
      rfl
    · rw [startCall_of_long (Nat.not_le.1 hp)]
      rfl
  · rw [startCall_of_not_free (by simpa using hs)]
    rfl

/-- An act of a host operation takes no byte (R190). -/
theorem perform_rxq (j : Job) (a : HostAct) (s : State) : (perform j a s).rxq = s.rxq := by
  rcases perform_cases j a s with ⟨p, e, n, -, -, he⟩ | ⟨n, -, he⟩ | ⟨r, -, he⟩ <;> rw [he] <;> rfl

/-- A step of the host's takes no byte (R186). -/
theorem hostStep_rxq {s t : State} (h : hostStep s = some t) : t.rxq = s.rxq := by
  obtain ⟨-, w, r, -, ⟨n, -, rfl⟩ | ⟨r', -, rfl⟩⟩ := hostStep_some h
  · rfl
  · unfold resolve
    split
    · rfl
    · exact perform_rxq _ _ s

/-- The issue of a host operation takes no byte (R186). -/
theorem startHostOp_rxq (op : HostOp) (s : State) : (startHostOp op s).rxq = s.rxq := by
  by_cases hs : s.free = true
  · cases hb : jobBegin s.par op with
    | some ja => rw [startHostOp_of_free hs hb, perform_rxq]
    | none =>
      cases op
      case call p e t => exact startCall_rxq _ _ _ s
      case awaitCallback t => rw [startHostOp, startAwait, if_pos hs]; rfl
      all_goals exact nomatch hb
  · rw [startHostOp_of_busy op (by simpa using hs)]
    rfl

/-- Time takes no byte (R32). -/
theorem advance_rxq (ms : Nat) (s : State) : (advance ms s).rxq = s.rxq := by
  obtain ⟨l, n, m, -, he⟩ := quiet_advance ms s
  rw [he]

/-- A move of Time's takes no byte, though a wait may end in it (R53). -/
theorem passTime_rxq (ms : Nat) (s : State) : (passTime ms s).rxq = s.rxq := by
  unfold passTime
  split
  · rename_i hc
    simp only [Bool.and_eq_true] at hc
    exact onTimeout_rxq (s := rxNone { s with sched := .time ms :: s.sched }) hc.1.1
  · split <;> exact advance_rxq ms s

/-- An operation of the host's, `drain` and units apart, takes no byte (R35 (5)). -/
theorem exec_rxq {i : Instr} {s t : State} (hd : i ≠ .drain) (hu : ∀ bs, imageOf i ≠ .link bs) (h : exec i s = .next t) :
    t.rxq = s.rxq := by
  cases hi : imageOf i with
  | link bs => exact absurd hi (hu bs)
  | command p =>
    obtain ⟨reply, n, he⟩ := exec_of_command hi s
    obtain rfl := Host.Outcome.next.inj (he.symm.trans h)
    exact startCall_rxq _ _ _ s
  | operation k =>
    cases i <;> cases hi
    · obtain rfl := Host.Outcome.next.inj h
      rfl
    · simp only [exec, execEncode] at h
      split at h <;> (obtain rfl := Host.Outcome.next.inj h; rfl)
    · obtain rfl := Host.Outcome.next.inj h
      rfl
    · obtain rfl := Host.Outcome.next.inj h
      split <;> rfl
    · obtain rfl := Host.Outcome.next.inj h
      split <;> rfl
    · exact absurd rfl hd
    · obtain rfl := Host.Outcome.next.inj h
      split <;> rfl

/-- A `drain` takes every byte or none (R54, R151). -/
theorem execDrain_rxq {s t : State} (h : execDrain s = .next t) : t.rxq <:+ s.rxq := by
  rcases execDrain_next h with ⟨-, rfl⟩ | ⟨-, -, rfl⟩ | rfl
  · rw [startSend_rxq]
    exact List.nil_suffix
  · exact List.nil_suffix
  · exact List.suffix_rfl

/-- Fetching link bytes is their arrival, whether they are a unit or not (R51, R92). -/
theorem runImage_link (bytes : List Byte) (s : State) : runImage (.link bytes) s = receiveUnit bytes s := by
  unfold runImage
  split
  · rename_i i hd
    exact exec_of_link (image_of_decodeLink hd).1 s
  · rfl

/-- Fetching a payload is a `call`, whether it is a listed command or not (R94, R215). -/
theorem runImage_command (p : List Byte) (s : State) :
    ∃ reply t, runImage (.command p) s = .next (startCall p reply t s) := by
  unfold runImage
  split
  · rename_i i hd
    exact exec_of_command (image_of_decodeCommand hd) s
  · exact ⟨_, _, rfl⟩

/-! ### The moves -/

/-- Where nothing is readable an act appends to the queue or leaves it. -/
theorem act_rxq_prefix {s t : State} (hr : s.phase.reads = false) (hs : s.phase ≠ .sendStart)
    (hb : s.phase = .sendBackoff → expired s = false) (h : Act s t) : s.rxq <+: t.rxq := by
  cases h with
  | append bs => exact List.prefix_append _ _
  | read b q hr' => exact nomatch hr.symm.trans hr'
  | timeout hr' => exact nomatch hr.symm.trans hr'
  | startSend hp => exact absurd hp hs
  | resumeSend hp he => exact nomatch (hb hp).symm.trans he
  | _ => exact List.prefix_rfl

/-- Where nothing is readable a step appends to the queue or leaves it (R35 (5)). -/
theorem step_rxq_prefix {s t : State} (hr : s.phase.reads = false) (hs : s.phase ≠ .sendStart)
    (hb : s.phase = .sendBackoff → expired s = false) (h : step s = .next t) : s.rxq <+: t.rxq := by
  rcases step_act h with ⟨l, n, m, -, rfl⟩ | ⟨l, ha | ⟨-, bs, -, rfl⟩⟩
  · exact List.prefix_rfl
  · exact act_rxq_prefix (s := { s with sched := l }) hr hs hb ha
  · rw [readQueued_of_not_reads (s := { s with sched := l, rxq := s.rxq ++ bs }) hr]
    exact List.prefix_append _ _

/-- A back-off before its deadline has not expired (R56). -/
theorem expired_sendBackoff {s : State} (hp : s.phase = .sendBackoff) (hd : ∃ p ∈ s.pend, s.now < p.deadline) :
    expired s = false := by
  obtain ⟨p, hs, hlt⟩ := hd
  have hs' : s.pend = some p := hs
  simp [expired, deadlineOf, hp, hs', hlt]

/-- A queue left as it is ends in itself. -/
theorem suffix_of_eq {q q' : List Byte} (h : q' = q) : q' <:+ q := h ▸ List.suffix_rfl

/-- A queue left as it is begins with itself. -/
theorem prefix_of_eq {q q' : List Byte} (h : q' = q) : q <+: q' := h ▸ List.prefix_rfl

/-- The default step takes bytes at the head only. -/
theorem autoStep_rxq (s : State) : (autoStep s).rxq <:+ s.rxq := by
  unfold autoStep
  split
  · exact transportStep_rxq ‹_›
  · split
    · exact suffix_of_eq (hostStep_rxq ‹_›)
    · exact suffix_of_eq (advance_rxq _ _)

/-- A move of an agent other than Transport appends to the queue or leaves it, a unit's arrival and a `drain` apart. -/
theorem runMove_rxq_prefix {m : Move} {s t : State} (h : runMove m s = .next t) (ht : m ≠ .transport)
    (hd : m ≠ .fetch (.operation .drain)) (hl : ∀ bytes, m ≠ .fetch (.link bytes))
    (ho : ∀ i bytes, m = .fetch (.operation i) → imageOf i ≠ .link bytes) : s.rxq <+: t.rxq := by
  match m with
  | .transport => exact absurd rfl ht
  | .time ms =>
    obtain rfl := Host.Outcome.next.inj h
    exact prefix_of_eq (passTime_rxq ms s)
  | .peer bs =>
    obtain ⟨-, rfl⟩ := deliver_next h
    exact List.prefix_append _ _
  | .host =>
    obtain rfl := Host.Outcome.next.inj h
    cases hh : hostStep s with
    | none => exact List.prefix_rfl
    | some u => exact prefix_of_eq (hostStep_rxq hh)
  | .start op =>
    obtain rfl := Host.Outcome.next.inj h
    exact prefix_of_eq (startHostOp_rxq op s)
  | .fetch (.link bytes) => exact absurd rfl (hl bytes)
  | .fetch (.command p) =>
    obtain ⟨reply, n, he⟩ := runImage_command p s
    obtain rfl := Host.Outcome.next.inj (he.symm.trans h)
    exact prefix_of_eq (startCall_rxq p reply n s)
  | .fetch (.operation i) =>
    exact prefix_of_eq (exec_rxq (i := i) (fun hi => hd (by rw [hi])) (fun bs => ho i bs rfl) h)

/-- Settles O53: the phases that read nothing, and the moves one by one. -/
theorem nothingIsReadWhereNothingIsReadable : Obligations.NothingIsReadWhereNothingIsReadable := by
  intro s t h
  refine ⟨fun hp => ?_, fun hs => ?_, fun rest hs => ?_, fun bytes rest hs => ?_, fun i bytes rest hs hi => ?_,
    fun m rest hs ht hd hl ho => ?_⟩
  · rcases hp with hp | hp | ⟨hp, hd⟩
    · exact step_rxq_prefix (by rw [hp]; rfl) (by rw [hp]; exact nofun) (fun hb => nomatch hp.symm.trans hb) h
    · exact step_rxq_prefix (by rw [hp]; rfl) (by rw [hp]; exact nofun) (fun hb => nomatch hp.symm.trans hb) h
    · exact step_rxq_prefix (by rw [hp]; rfl) (by rw [hp]; exact nofun) (fun _ => expired_sendBackoff hp hd) h
  · obtain rfl := Host.Outcome.next.inj ((step_of_nil hs).symm.trans h)
    exact autoStep_rxq s
  · rcases hs with hs | hs <;> rw [step_of_sched hs] at h
    · obtain rfl := Host.Outcome.next.inj h
      cases hh : transportStep { s with sched := rest } with
      | none => exact List.suffix_rfl
      | some u => exact transportStep_rxq (s := { s with sched := rest }) hh
    · exact execDrain_rxq (s := { s with sched := rest }) h
  · rw [step_of_sched hs, runMove, runImage_link] at h
    exact receiveUnit_rxq (s := { s with sched := rest }) h
  · rw [step_of_sched hs] at h
    exact receiveUnit_rxq (s := { s with sched := rest }) ((exec_of_link hi _).symm.trans h)
  · rw [step_of_sched hs] at h
    exact runMove_rxq_prefix (s := { s with sched := rest }) h ht hd hl ho

end Sys2Proof.Machine
end

section
/-! PROOF. Whole operations: the runs of a hunt, of a receive, and of a send to a silent peer (R131, R133, R152). -/

namespace Sys2Proof.Machine

open Safety

/-! ### Runs of reads -/

/-- Without a byte nothing is read. -/
theorem readQueued_nil {s : State} (hq : s.rxq = []) (n : Nat) : readQueued n s = s := by
  cases n <;> simp [readQueued, hq]

/-- Reads go on after fewer reads. -/
theorem readQueued_add (n : Nat) : ∀ m s, readQueued (m + n) s = readQueued n (readQueued m s) := by
  intro m
  induction m with
  | zero => intro s; rw [Nat.zero_add]; rfl
  | succ m ih =>
    intro s
    by_cases hr : s.phase.reads = true
    · cases hq : s.rxq with
      | nil => rw [readQueued_nil hq, readQueued_nil hq, readQueued_nil hq]
      | cons b q => rw [Nat.add_right_comm, readQueued_succ hr hq, readQueued_succ hr hq, ih]
    · have hr' : s.phase.reads = false := by simpa using hr
      rw [readQueued_of_not_reads hr', readQueued_of_not_reads hr', readQueued_of_not_reads hr']

/-- When every one of `k` reads takes its byte, they are the run of `k` moves of Transport's (R51, R89). -/
theorem run_reads (l : List Move) : ∀ (k : Nat) (s : State), (readQueued k s).rxq.length + k = s.rxq.length →
    run k { s with sched := List.replicate k .transport ++ l } = .next { readQueued k s with sched := l } := by
  intro k
  induction k with
  | zero => intro s _; rfl
  | succ k ih =>
    intro s hlen
    by_cases hr : s.phase.reads = true
    · cases hq : s.rxq with
      | nil => simp [hq] at hlen
      | cons b q =>
        rw [readQueued_succ hr hq] at hlen ⊢
        have hrest : (react b (rxTake b q s)).rxq.length = q.length := by rw [react_rxq]; rfl
        rw [hq, List.length_cons] at hlen
        rw [← hq, run_succ (step_read (s := { s with sched := List.replicate (k + 1) .transport ++ l })
          (rest := List.replicate k .transport ++ l) rfl hr hq), ← ih _ (by omega)]
        exact congrArg (run k) (react_withSched b (rxTake b q s) _)
    · rw [readQueued_of_not_reads (by simpa using hr)] at hlen
      omega

/-- Garbage without `SOF` is read and dropped in a hunt (R131, R134). -/
theorem readQueued_garbage {q : List Byte} : ∀ (g : List Byte) (s : State), (s.phase = .syncOnly ∨ s.phase = .recvSync) →
    s.rxq = g ++ q → Config.sof ∉ g →
    readQueued g.length s = { s with rxq := q, events := s.events ++ g.map .read } := by
  intro g
  induction g with
  | nil =>
    intro s _ hq _
    have hq' : s.rxq = q := hq
    simp [readQueued, ← hq']
  | cons b g ih =>
    intro s hp hq hb
    have hr : s.phase.reads = true := by rcases hp with hp | hp <;> rw [hp] <;> rfl
    have hne : b ≠ Config.sof := fun h => hb (h ▸ List.mem_cons_self)
    have hreact : react b (rxTake b (g ++ q) s) = rxTake b (g ++ q) s := by
      rcases hp with hp | hp
      · rw [react_syncOnly _ _ hp, onSyncOnly, if_neg hne]
      · rw [react_recvSync _ _ hp, onRecvSync, if_neg hne]
    rw [List.length_cons, readQueued_succ hr (q := g ++ q) hq, hreact,
      ih (rxTake b (g ++ q) s) hp rfl fun h => hb (List.mem_cons_of_mem _ h)]
    simp [rxTake]

/-- A hunt reads its garbage and then takes the `SOF` (R131, R134). -/
theorem readQueued_hunt {g q : List Byte} {s : State} (hp : s.phase = .syncOnly ∨ s.phase = .recvSync)
    (hq : s.rxq = g ++ Config.sof :: q) (hg : Config.sof ∉ g) : readQueued (g.length + 1) s =
      react Config.sof (rxTake Config.sof q { s with events := s.events ++ g.map .read }) := by
  have hr : s.phase.reads = true := by rcases hp with hp | hp <;> rw [hp] <;> rfl
  rw [readQueued_add, readQueued_garbage g s hp hq hg,
    readQueued_succ (s := { s with rxq := Config.sof :: q, events := s.events ++ g.map .read }) hr rfl]
  rfl

/-- LEN and the body it announces, empty or not, read whole (R135, R136). -/
theorem readQueued_receive {s : State} {len : Byte} {body q : List Byte} (hp : s.phase = .recvLen)
    (hq : s.rxq = len :: (body ++ q)) (hl : body.length = follow s.par.lenBias len) :
    ∃ d, readQueued (body.length + 1) s = { s with
      phase := .recvAck
      byteDeadline := d
      rxLen := len
      rxBuf := body
      rxq := q
      events := s.events ++ (len :: body).map .read } := by
  by_cases hb : body = []
  · subst hb
    refine ⟨s.byteDeadline, ?_⟩
    rw [List.length_nil, readQueued_succ (by rw [hp]; rfl) hq, react_recvLen _ _ hp]
    exact if_pos hl.symm
  · exact ⟨_, readQueued_len_body hp hq hb hl⟩

/-- Garbage, `SOF`, LEN and the body, read whole (R133 to R136). -/
theorem readQueued_huntAndReceive {s : State} {len : Byte} {g body q : List Byte} (hp : s.phase = .recvSync)
    (hq : s.rxq = g ++ Config.sof :: len :: (body ++ q)) (hg : Config.sof ∉ g)
    (hl : body.length = follow s.par.lenBias len) : ∃ d, readQueued (g.length + 1 + (body.length + 1)) s = { s with
      phase := .recvAck
      byteDeadline := d
      rxLen := len
      rxBuf := body
      rxq := q
      events := s.events ++ (g ++ Config.sof :: len :: body).map .read } := by
  have hhunt := readQueued_hunt (.inr hp) hq hg
  rw [react_sof_recvSync (s := { s with events := s.events ++ g.map .read }) _ hp] at hhunt
  obtain ⟨d, hread⟩ := readQueued_receive (s := readQueued (g.length + 1) s) (len := len) (body := body) (q := q)
    (by rw [hhunt]) (by rw [hhunt, rxTake_rxq]) (by rw [hhunt]; exact hl)
  refine ⟨d, ?_⟩
  rw [readQueued_add, hread, hhunt]
  simp [rxTake]

/-! ### The hunt and the receive -/

/-- An operation of Transport's that is fetched. -/
theorem step_fetch_operation {s : State} {i : Instr} {rest : List Move} (hs : s.sched = .fetch (.operation i) :: rest) :
    step s = exec i { s with sched := rest } :=
  stepRunsTheDecodedInstruction _ _ _ s hs rfl

section
variable {s : State} {rest : List Move}

/-- The fetch of `syncToFrameStart` over a free block (R130). -/
theorem step_issueSync {t : Nat} (hs : s.sched = .fetch (.operation (.syncToFrameStart t)) :: rest)
    (hfree : s.free = true) : step s = .next { beginSync t s with sched := rest } := by
  rw [step_fetch_operation hs]
  exact congrArg Host.Outcome.next (if_pos hfree)

/-- The fetch of `receiveFrame` over a free block (R130). -/
theorem step_issueReceive {t : Nat} (hs : s.sched = .fetch (.operation (.receiveFrame t)) :: rest)
    (hfree : s.free = true) : step s = .next { beginReceive t s with sched := rest } := by
  rw [step_fetch_operation hs]
  exact congrArg Host.Outcome.next (if_pos hfree)

/-- The fetch of `sendFrame` over a free block (R150). -/
theorem step_issueSend {f : List Byte} (hs : s.sched = .fetch (.operation (.sendFrame f)) :: rest)
    (hfree : s.free = true) : step s = .next { beginSend f s with sched := rest } := by
  rw [step_fetch_operation hs]
  exact congrArg Host.Outcome.next (if_pos hfree)

end

/-- Settles O57: the issue, the garbage, and the `SOF`. -/
theorem syncConsumesExactlyTheGarbage : Obligations.SyncConsumesExactlyTheGarbage := by
  intro g q timeout s hp he hj hq hg hs
  have hfree : s.free = true := (free_iff s).2 ⟨hp, he, hj⟩
  have hissue : step s = .next { beginSync timeout s with sched := List.replicate (g.length + 1) .transport ++ [] } := by
    rw [step_issueSync hs hfree, List.append_nil]
  have hread : readQueued (g.length + 1) (beginSync timeout s) = finishOp (.ok .unit)
      (rxTake Config.sof q { beginSync timeout s with events := s.events ++ g.map .read }) := by
    rw [readQueued_hunt (s := beginSync timeout s) (.inl rfl) hq hg, react_syncOnly _ _ rfl, onSyncOnly, if_pos rfl]
    rfl
  rw [run_succ hissue, run_reads [] _ _ (by rw [hread]; simp [hq]; omega), hread]
  refine ⟨_, rfl, rfl, rfl, rfl, rfl, ?_⟩
  simp [Config.sof]

/-- Settles O58: the issue, the hunt, LEN and the body, and the step in `RecvAck`. -/
theorem receiveFrameDeliversTheBody : Obligations.ReceiveFrameDeliversTheBody := by
  intro g body q len timeout s hp he hj hq hg hl hs
  have hfree : s.free = true := (free_iff s).2 ⟨hp, he, hj⟩
  have hsched : List.replicate (g.length + body.length + 3) Move.transport =
      List.replicate (g.length + 1 + (body.length + 1)) .transport ++ [.transport] := by
    rw [← List.replicate_succ']
    congr 1
    omega
  have hissue : step s = .next { beginReceive timeout s with
      sched := List.replicate (g.length + 1 + (body.length + 1)) .transport ++ [.transport] } := by
    rw [step_issueReceive hs hfree, hsched]
  obtain ⟨d, hread⟩ := readQueued_huntAndReceive (s := beginReceive timeout s) rfl
    (show s.rxq = g ++ Config.sof :: len :: (body ++ q) by rw [hq, List.append_assoc]; rfl) hg hl
  have hrun := run_reads [.transport] (g.length + 1 + (body.length + 1)) (beginReceive timeout s)
    (by rw [hread]; simp [hq]; omega)
  rw [show g.length + body.length + 4 = (g.length + 1 + (body.length + 1) + 1) + 1 by omega, run_succ hissue,
    run_add 1 _ hrun, hread, run_succ (step_recvAck rfl rfl), run_zero]
  exact ⟨_, chkFlag len body, rfl, chkFlag_iff len body, rfl, rfl, rfl, rfl, rfl, rfl, rfl⟩

/-! ### The send to a silent peer -/

/-- A wait of `ms` on an empty queue, and then the move at its deadline. -/
theorem run_silentWait {s : State} {ms : Nat} {l : List Move} (hs : s.sched = .time ms :: .transport :: l)
    (hr : s.phase.reads = true) (hq : s.rxq = []) (hd : deadlineOf s = some (s.now + ms)) (hms : 0 < ms) (n : Nat) :
    run (n + 2) s = run n (onTimeout (rxNone { s with now := s.now + ms, sched := l })) := by
  have htime : step s = .next { s with now := s.now + ms, sched := .transport :: l } := by
    rw [step_of_sched hs, runMove, passTime_bound (s := { s with sched := .transport :: l }) hr hq hd
      (Nat.lt_add_of_pos_right hms), if_pos (Nat.le_refl _)]
  have hend := step_timeout (s := { s with now := s.now + ms, sched := .transport :: l }) rfl hr hq
    ((expired_iff _).2 ⟨_, hd, Nat.le_refl _⟩)
  rw [run_succ htime, run_succ hend]

/-- Settles O59: the issue, the step in `SendStart`, and the two silent waits. -/
theorem silentPeerGetsExactlyTwoSends : Obligations.SilentPeerGetsExactlyTwoSends := by
  intro f s hp he hj hs
  rw [run_succ (step_issueSend hs ((free_iff s).2 ⟨hp, he, hj⟩)), run_succ (step_sendStart rfl rfl), startSend_eq,
    run_silentWait rfl rfl rfl rfl (by decide), run_silentWait rfl rfl rfl rfl (by decide)]
  exact ⟨_, rfl, rfl, rfl, rfl, rfl, rfl, rfl⟩

end Sys2Proof.Machine
end

section
/-! PROOF. The registers that are dead in their phase are never observed (R24, R36). -/

namespace Sys2Proof.Machine

open Safety

/-- Forgetting the dead registers twice is forgetting them once. -/
theorem forgetDead_forgetDead (s : State) : forgetDead (forgetDead s) = forgetDead s := by
  obtain ⟨ph, p, _⟩ := s
  cases ph
  case sendStart => cases p <;> rfl
  all_goals rfl

/-- What an operation answers depends on the live registers only. -/
def Blind (f : State → State) : Prop := ∀ s, forgetDead (f (forgetDead s)) = forgetDead (f s)

/-- Two states that differ in dead registers only stay so under such an operation. -/
theorem Blind.alike {f : State → State} (hf : Blind f) {s u : State} (h : forgetDead s = forgetDead u) :
    forgetDead (f s) = forgetDead (f u) := by
  rw [← hf s, h, hf u]

/-! ### Transport -/

/-- The deadline of a wait is live (R24). -/
theorem deadlineOf_forgetDead (s : State) : deadlineOf (forgetDead s) = deadlineOf s := by
  obtain ⟨ph, _⟩ := s
  cases ph <;> rfl

theorem expired_forgetDead (s : State) : expired (forgetDead s) = expired s := by
  rw [expired, expired, deadlineOf_forgetDead]
  rfl

/-- What a byte does depends on the live registers of its phase (R134 to R136, R154, R156, R158, R159). -/
theorem blind_react (b : Byte) : Blind (react b) := by
  rintro ⟨ph, _, _, _, len, buf, _, _, _, _, _, _, _, _, _, _, _, par⟩
  cases ph
  case syncOnly => by_cases hb : b = Config.sof <;> simp [forgetDead, react, onSyncOnly, hb, finishOp]
  case recvSync => by_cases hb : b = Config.sof <;> simp [forgetDead, react, onRecvSync, hb, bodyDeadline]
  case recvLen =>
    by_cases hf : follow par.lenBias b = 0 <;> simp [forgetDead, react, onRecvLen, hf, bodyDeadline]
  case recvBody =>
    by_cases hl : buf.length + 1 = follow par.lenBias len <;> simp [forgetDead, react, onRecvBody, hl, bodyDeadline]
  case sendWait1 =>
    by_cases hb : b = Config.ack <;> simp [forgetDead, react, onSendWait1, hb, finishOp, armBackoff, txAck, txPut]
  case sendWait2T => by_cases hb : b = Config.ack <;> simp [forgetDead, react, onSendWait2, hb, finishOp]
  case sendWait2N => by_cases hb : b = Config.ack <;> simp [forgetDead, react, onSendWait2, hb, finishOp]
  all_goals exact forgetDead_forgetDead _

/-- So does what a timeout does (R135, R136, R155, R232, R234). -/
theorem blind_onTimeout : Blind onTimeout := by
  rintro ⟨ph, _⟩
  cases ph
  case sendStart => exact forgetDead_forgetDead _
  all_goals rfl

/-- The step in `SendStart` reads the frame only of its send (R150, R153). -/
theorem blind_startSend : Blind startSend := by
  rintro ⟨ph, p, _⟩
  rw [startSend_eq, startSend_eq]
  cases ph
  case sendStart => cases p <;> rfl
  all_goals rfl

/-- The end of the back-off reads the frame only of its send (R157). -/
theorem blind_resumeSend : Blind resumeSend := by
  rintro ⟨ph, p, _⟩
  cases ph
  case sendStart => cases p <;> rfl
  all_goals rfl

/-- The step in `RecvAck` reads LEN and the body, which are live there (R137). -/
theorem forgetDead_finishReceive {s : State} (hp : s.phase = .recvAck) :
    forgetDead (finishReceive (forgetDead s)) = forgetDead (finishReceive s) := by
  obtain ⟨ph, _⟩ := s
  obtain rfl : ph = .recvAck := hp
  rfl

/-- In a phase that reads the step of Transport is a read (R53). -/
theorem transportStep_of_reads {s : State} (hr : s.phase.reads = true) : transportStep s = readStep s := by
  obtain ⟨ph, _⟩ := s
  cases ph <;> cases hr <;> rfl

/-- The four phases that do not read (R89). -/
theorem phase_of_not_reads {ph : Phase} (h : ¬ ph.reads = true) :
    ph = .idle ∨ ph = .sendStart ∨ ph = .sendBackoff ∨ ph = .recvAck := by
  revert h
  cases ph <;> decide

/-- A read takes the byte at the head, or the deadline, which are live. -/
theorem readStep_forgetDead (s : State) : (readStep (forgetDead s)).map forgetDead = (readStep s).map forgetDead := by
  have hq : (forgetDead s).rxq = s.rxq := rfl
  cases h : s.rxq with
  | cons b q =>
    simp only [readStep, hq, h, Option.map_some]
    exact congrArg some (blind_react b (rxTake b q s))
  | nil =>
    simp only [readStep, hq, h, expired_forgetDead]
    split
    · exact congrArg some (blind_onTimeout (rxNone s))
    · rfl

/-- A step of Transport observes no dead register (R24). -/
theorem transportStep_forgetDead (s : State) :
    (transportStep (forgetDead s)).map forgetDead = (transportStep s).map forgetDead := by
  have hph : (forgetDead s).phase = s.phase := rfl
  by_cases hr : s.phase.reads = true
  · rw [transportStep_of_reads hr, transportStep_of_reads (s := forgetDead s) hr, readStep_forgetDead]
  · rcases phase_of_not_reads hr with hp | hp | hp | hp
    · simp only [transportStep, hph, hp, Option.map_none]
    · simp only [transportStep, hph, hp, Option.map_some]
      exact congrArg some (blind_startSend s)
    · simp only [transportStep, hph, hp, expired_forgetDead]
      split
      · exact congrArg some (blind_resumeSend s)
      · rfl
    · simp only [transportStep, hph, hp, Option.map_some]
      exact congrArg some (forgetDead_finishReceive hp)

/-- The reads of an arrival observe no dead register (R89). -/
theorem blind_readQueued : ∀ n, Blind (readQueued n) := by
  intro n
  induction n with
  | zero => exact forgetDead_forgetDead
  | succ n ih =>
    intro s
    by_cases hr : s.phase.reads = true
    · cases hq : s.rxq with
      | nil =>
        rw [readQueued_nil hq, readQueued_nil (s := forgetDead s) hq, forgetDead_forgetDead]
      | cons b q =>
        rw [readQueued_succ hr hq, readQueued_succ (s := forgetDead s) hr hq]
        exact ih.alike (blind_react b (rxTake b q s))
    · have hr' : s.phase.reads = false := by simpa using hr
      rw [readQueued_of_not_reads hr', readQueued_of_not_reads (s := forgetDead s) hr', forgetDead_forgetDead]

/-! ### The host -/

/-- A `call` observes no dead register (R181). -/
theorem blind_startCall (p : List Byte) (e : Bool) (n : Nat) : Blind (startCall p e n) := by
  intro s
  by_cases hs : s.free = true
  · by_cases hp : p.length ≤ maxPayload s.par.lenBias
    · rw [startCall_of_free hs hp, startCall_of_free (s := forgetDead s) hs hp]
      rfl
    · rw [startCall_of_long (Nat.not_le.1 hp), startCall_of_long (s := forgetDead s) (Nat.not_le.1 hp)]
      exact forgetDead_forgetDead (refuse s)
  · have hs' : s.free = false := by simpa using hs
    rw [startCall_of_not_free hs', startCall_of_not_free (s := forgetDead s) hs']
    exact forgetDead_forgetDead (refuse s)

/-- In `Idle` forgetting leaves the send as it is. -/
theorem forgetDead_pend_of_idle {s : State} (hp : s.phase = .idle) : (forgetDead s).pend = s.pend :=
  if_neg (by rw [hp]; exact nofun)

/-- The issue of a bare hunt over an idle block (R130). -/
theorem forgetDead_beginSync {s : State} (hp : s.phase = .idle) (t : Nat) :
    forgetDead (beginSync t (forgetDead s)) = forgetDead (beginSync t s) :=
  congrArg (fun p => forgetDead { beginSync t s with pend := p }) (forgetDead_pend_of_idle hp)

/-- The issue of a receive over an idle block (R130). -/
theorem forgetDead_beginReceive {s : State} (hp : s.phase = .idle) (t : Nat) :
    forgetDead (beginReceive t (forgetDead s)) = forgetDead (beginReceive t s) :=
  congrArg (fun p => forgetDead { beginReceive t s with pend := p }) (forgetDead_pend_of_idle hp)

/-- An act of a host operation observes no dead register (R190). -/
theorem forgetDead_perform {s : State} (hp : s.phase = .idle) (j : Job) (a : HostAct) :
    forgetDead (perform j a (forgetDead s)) = forgetDead (perform j a s) := by
  cases a with
  | call p e t =>
    have hpar : (forgetDead s).par = s.par := rfl
    cases hf : encodeFrame s.par.lenBias Config.typeRequest p with
    | some f =>
      rw [perform_call hf, perform_call (s := forgetDead s) hf]
      rfl
    | none =>
      rw [perform_call_long hf, perform_call_long (s := forgetDead s) hf]
      exact forgetDead_forgetDead (jobDone (callRefused s.par j) s)
  | await t =>
    exact forgetDead_beginReceive (s := { s with exch := some ⟨.callback, none⟩, job := some j }) hp t
  | done r => exact forgetDead_forgetDead (jobDone r s)

/-- Nor does the resolution of a `call` or `awaitCallback` (R181). -/
theorem forgetDead_resolve {s : State} (hp : s.phase = .idle) (r : OpResult) :
    forgetDead (resolve r (forgetDead s)) = forgetDead (resolve r s) := by
  have hjob : (forgetDead s).job = s.job := rfl
  cases hj : s.job with
  | none =>
    simp only [resolve, hjob, hj]
    exact forgetDead_forgetDead (jobDone r s)
  | some j =>
    simp only [resolve, hjob, hj]
    exact forgetDead_perform hp _ _

/-- A step of the host's observes no dead register (R186). -/
theorem hostStep_forgetDead (s : State) : (hostStep (forgetDead s)).map forgetDead = (hostStep s).map forgetDead := by
  have hph : (forgetDead s).phase = s.phase := rfl
  have hex : (forgetDead s).exch = s.exch := rfl
  unfold hostStep
  rw [hph, hex]
  split
  · rename_i hp _
    split
    · exact congrArg some (forgetDead_beginReceive (s := { s with exch := some ⟨.reply, none⟩ }) hp _)
    · exact congrArg some (forgetDead_resolve hp _)
  · rfl

/-- The issue of a host operation observes no dead register (R186). -/
theorem blind_startHostOp (op : HostOp) : Blind (startHostOp op) := by
  intro s
  by_cases hs : s.free = true
  · have hp : s.phase = .idle := ((free_iff s).1 hs).1
    cases hb : jobBegin s.par op with
    | some ja =>
      rw [startHostOp_of_free hs hb, startHostOp_of_free (s := forgetDead s) hs hb]
      exact forgetDead_perform hp _ _
    | none =>
      cases op
      case call p e t => exact blind_startCall _ _ _ s
      case awaitCallback t =>
        rw [startHostOp, startHostOp, startAwait, startAwait, if_pos hs, if_pos (c := (forgetDead s).free = true) hs]
        exact forgetDead_beginReceive (s := { s with exch := some ⟨.callback, none⟩ }) hp t
      all_goals exact nomatch hb
  · have hs' : s.free = false := by simpa using hs
    rw [startHostOp_of_busy op hs', startHostOp_of_busy (s := forgetDead s) op hs']
    exact forgetDead_forgetDead (refuse s)

/-! ### Time -/

/-- What bounds time is live (R53). -/
theorem timeBound_forgetDead (s : State) : timeBound (forgetDead s) = timeBound s := by
  rw [timeBound, timeBound, deadlineOf_forgetDead]
  rfl

/-- Time moves no register (R32). -/
theorem advance_forgetDead (ms : Nat) (s : State) : advance ms (forgetDead s) = forgetDead (advance ms s) := by
  cases hb : timeBound s with
  | none =>
    rw [advance_free ((timeBound_forgetDead s).trans hb), advance_free hb]
    rfl
  | some d =>
    simp only [advance, timeBound_forgetDead, hb]
    by_cases hm : s.now + ms ≤ d
    · rw [if_pos hm, if_pos (c := (forgetDead s).now + ms ≤ d) hm]
      rfl
    · rw [if_neg hm, if_neg (c := (forgetDead s).now + ms ≤ d) hm]
      rfl

/-- A move of Time's observes no dead register (R53). -/
theorem blind_passTime (ms : Nat) : Blind (passTime ms) := by
  intro s
  have hleft : timeLeft ms (forgetDead s) = timeLeft ms s := by
    rw [timeLeft, timeLeft, advance_forgetDead]
    rfl
  have hphase : (forgetDead s).phase = s.phase := rfl
  have hrxq : (forgetDead s).rxq = s.rxq := rfl
  unfold passTime
  rw [hphase, hrxq, expired_forgetDead, hleft, advance_forgetDead]
  split
  · exact blind_onTimeout (rxNone { s with sched := .time ms :: s.sched })
  · split
    · exact forgetDead_forgetDead _
    · exact forgetDead_forgetDead { advance ms s with sched := .time (timeLeft ms s) :: s.sched }

/-! ### The step -/

/-- The same outcome, but for the dead registers of a next state. -/
def AlikeOutcomes (a b : Host.Outcome State Fault Refusal) : Prop :=
  match a, b with
  | .next t, .next u => forgetDead t = forgetDead u
  | .fault e, .fault f => e = f
  | _, _ => False

/-- A blind operation answers alike. -/
theorem Blind.alikeOutcomes {f : State → State} (hf : Blind f) (s : State) :
    AlikeOutcomes (.next (f s)) (.next (f (forgetDead s))) :=
  (hf s).symm

/-- A peer step observes no dead register (R51). -/
theorem alikeOutcomes_deliver (bs : List Byte) (s : State) :
    AlikeOutcomes (deliver bs s) (deliver bs (forgetDead s)) := by
  cases hroom : roomFor bs.length s with
  | true =>
    rw [deliver_of_room hroom, deliver_of_room (s := forgetDead s) hroom]
    exact (forgetDead_forgetDead { s with rxq := s.rxq ++ bs }).symm
  | false =>
    rw [deliver_of_full hroom, deliver_of_full (s := forgetDead s) hroom]
    rfl

/-- A unit's arrival observes no dead register (R51, R89). -/
theorem alikeOutcomes_receiveUnit (bs : List Byte) (s : State) :
    AlikeOutcomes (receiveUnit bs s) (receiveUnit bs (forgetDead s)) := by
  cases hroom : roomFor bs.length s with
  | true =>
    rw [receiveUnit_of_room hroom, receiveUnit_of_room (s := forgetDead s) hroom]
    exact (blind_readQueued bs.length).alikeOutcomes { s with rxq := s.rxq ++ bs }
  | false =>
    rw [receiveUnit_of_full hroom, receiveUnit_of_full (s := forgetDead s) hroom]
    rfl

/-- A `drain` observes no dead register (R151). -/
theorem alikeOutcomes_execDrain (s : State) : AlikeOutcomes (execDrain s) (execDrain (forgetDead s)) := by
  have hphase : (forgetDead s).phase = s.phase := rfl
  unfold execDrain
  rw [hphase, expired_forgetDead]
  split
  · exact blind_startSend.alikeOutcomes s
  · split
    · exact blind_resumeSend.alikeOutcomes s
    · exact (forgetDead_forgetDead (refuse s)).symm

/-- What only adds an outcome observes no dead register. -/
theorem blind_answer (r : OpResult) : Blind (answer r) :=
  fun s => forgetDead_forgetDead (answer r s)

/-- An operation guarded by a free block observes no dead register when it does not (R21). -/
theorem blind_ofFree {f : State → State} (hf : ∀ s, s.phase = .idle → forgetDead (f (forgetDead s)) = forgetDead (f s)) :
    Blind fun s => if s.free then f s else refuse s := by
  intro s
  have hfree : (forgetDead s).free = s.free := rfl
  simp only [hfree]
  split
  · exact hf s ((free_iff s).1 ‹_›).1
  · exact blind_answer _ s

/-- An instruction observes no dead register. -/
theorem alikeOutcomes_exec (i : Instr) (s : State) : AlikeOutcomes (exec i s) (exec i (forgetDead s)) := by
  cases hi : imageOf i with
  | link bs =>
    rw [exec_of_link hi, exec_of_link hi]
    exact alikeOutcomes_receiveUnit bs s
  | command p => cases i <;> cases hi <;> exact (blind_startCall _ _ _).alikeOutcomes s
  | operation k =>
    cases i <;> cases hi
    · exact (blind_answer _).alikeOutcomes s
    · have hpar : (forgetDead s).par = s.par := rfl
      simp only [exec, execEncode, hpar]
      split
      · exact (blind_answer _).alikeOutcomes s
      · exact (blind_answer _).alikeOutcomes s
    · exact (blind_answer _).alikeOutcomes s
    · exact (blind_ofFree fun _ hp => forgetDead_beginSync hp _).alikeOutcomes s
    · exact (blind_ofFree fun _ hp => forgetDead_beginReceive hp _).alikeOutcomes s
    · exact alikeOutcomes_execDrain s
    · exact (blind_ofFree fun _ _ => rfl).alikeOutcomes s

/-- The fetch of an image observes no dead register. -/
theorem alikeOutcomes_runImage (im : Image) (s : State) : AlikeOutcomes (runImage im s) (runImage im (forgetDead s)) := by
  cases im with
  | link bytes =>
    rw [runImage_link, runImage_link]
    exact alikeOutcomes_receiveUnit bytes s
  | command p =>
    have hpar : (forgetDead s).par = s.par := rfl
    unfold runImage
    rw [hpar]
    split
    · exact alikeOutcomes_exec _ s
    · exact (blind_startCall _ _ _).alikeOutcomes s
  | operation i => exact alikeOutcomes_exec i s

/-- An optional step that observes no dead register, or no step. -/
theorem forgetDead_getD {f : State → Option State} (hf : ∀ s, (f (forgetDead s)).map forgetDead = (f s).map forgetDead) :
    Blind fun s => (f s).getD s := by
  intro s
  have h := hf s
  cases hs : f s <;> cases hu : f (forgetDead s) <;> simp only [hs, hu, Option.map_none, Option.map_some] at h
  · simp only [hs, hu, Option.getD_none, forgetDead_forgetDead]
  · exact nomatch h
  · exact nomatch h
  · simpa only [hs, hu, Option.getD_some] using Option.some.inj h

/-- A move of an agent observes no dead register. -/
theorem alikeOutcomes_runMove (m : Move) (s : State) : AlikeOutcomes (runMove m s) (runMove m (forgetDead s)) := by
  cases m with
  | transport => exact (forgetDead_getD transportStep_forgetDead).alikeOutcomes s
  | time ms => exact (blind_passTime ms).alikeOutcomes s
  | peer bs => exact alikeOutcomes_deliver bs s
  | host => exact (forgetDead_getD hostStep_forgetDead).alikeOutcomes s
  | start op => exact (blind_startHostOp op).alikeOutcomes s
  | fetch im => exact alikeOutcomes_runImage im s

/-- The default step observes no dead register (notes/assumptions/2). -/
theorem blind_autoStep : Blind autoStep := by
  intro s
  have ht := transportStep_forgetDead s
  have hh := hostStep_forgetDead s
  unfold autoStep
  cases hts : transportStep s <;> cases htu : transportStep (forgetDead s) <;>
    simp only [hts, htu, Option.map_none, Option.map_some] at ht ⊢
  · cases hhs : hostStep s <;> cases hhu : hostStep (forgetDead s) <;>
      simp only [hhs, hhu, Option.map_none, Option.map_some] at hh ⊢
    · exact (congrArg forgetDead (advance_forgetDead _ { s with fresh := s.fresh + 1 })).trans (forgetDead_forgetDead _)
    · exact nomatch hh
    · exact nomatch hh
    · exact Option.some.inj hh
  · exact nomatch ht
  · exact nomatch ht
  · exact Option.some.inj ht

/-- Settles O60: each move observes live registers only. -/
theorem deadRegistersAreNeverObserved : Obligations.DeadRegistersAreNeverObserved := by
  intro s
  show AlikeOutcomes (step s) (step (forgetDead s))
  cases hs : s.sched with
  | nil =>
    rw [step_of_nil hs, step_of_nil (s := forgetDead s) hs]
    exact blind_autoStep.alikeOutcomes s
  | cons m rest =>
    rw [step_of_sched hs, step_of_sched (s := forgetDead s) hs]
    exact alikeOutcomes_runMove m { s with sched := rest }

end Sys2Proof.Machine
end
